-- ==== Sys2Proof/Word.lean ====
section
/-! DEFINITION. The units of 00_scope.md R6: byte, character, word, and the width XLEN of rule R5.

A word-sized register is held in 32 bits in both versions of the processor; in the sixteen-bit
version only its low sixteen bits are used (`Xlen.fit`, log entry 26). -/

namespace Sys2Proof

/-- A byte: 8 bits (R6). -/
abbrev Byte := BitVec 8

/-- A character: 16 bits, the unit of an instruction (R6, R90). -/
abbrev Char16 := BitVec 16

/-- A register-sized value or an address (R6, R20). -/
abbrev Word := BitVec 32

/-- XLEN (R5): the thirty-two bit version, which is the primary one, or the sixteen bit version. -/
inductive Xlen where
  | w32
  | w16
  deriving DecidableEq, Repr

/-- The number W of rule R7. -/
def Xlen.bits : Xlen → Nat
  | .w32 => 32
  | .w16 => 16

/-- A value modulo 2^W (R7, R27): what a W-bit register holds of it. -/
def Xlen.fit : Xlen → Word → Word
  | .w32, v => v
  | .w16, v => v &&& 0xFFFF#32

end Sys2Proof
end

