-- ==== Sys2Proof/Config.lean ====
section
/-! DEFINITION. The parameters of 00_scope.md R5 as one record, the constants the source fixes, and
the free values.

Every OPEN parameter is a field of `Config`, and a state carries its configuration (log entry 37),
so that a statement over all states is a statement over all values of the parameters. -/

namespace Sys2Proof

/-- BYTE_ORDER (R5, 20_memory.md R63, D2). -/
inductive ByteOrder where
  | little
  | big
  deriving DecidableEq, Repr

/-- SUB_CARRY_SENSE (R5, R11, D34): what C holds after a subtraction, and with it which of the
source's two tables of unsigned branch tests is in force. -/
inductive CarrySense where
  | borrow
  | notBorrow
  deriving DecidableEq, Repr

/-- NMI_TRIGGER (R5, 60_exceptions.md R283, D16). -/
inductive NmiTrigger where
  | edge
  | level
  deriving DecidableEq, Repr

/-- A populated region of the address space (20_memory.md R62): RAM when `writable`, else ROM. -/
structure Region where
  base : Nat
  size : Nat
  writable : Bool
  deriving DecidableEq, Repr

/-- The parameters of R5. BUS_WIDTH is not visible to a program and has no field. -/
structure Config where
  /-- XLEN (D1, D23). -/
  xlen : Xlen
  /-- BYTE_ORDER (D2). -/
  byteOrder : ByteOrder
  /-- BRANCH_DISP_SCALE: bytes per unit of the nine-bit branch displacement (D4). -/
  branchScale : Nat
  /-- SHORT_CALL_OP4: the major opcode of the short CALL, or none (D5). -/
  shortCallOp4 : Option (BitVec 4)
  /-- RI_ENCODING: the character of RI, or none (D6). -/
  riEncoding : Option Char16
  /-- ROTATE_THROUGH_CARRY (D8). -/
  rotateThroughCarry : Bool
  /-- SUB_CARRY_SENSE (D34). -/
  subCarrySense : CarrySense
  /-- TRS_SR_FULL_WRITE (D9). -/
  trsSrFullWrite : Bool
  /-- NMI_TRIGGER (D16). -/
  nmiTrigger : NmiTrigger
  /-- IFETCH_STALE_WINDOW, in bytes (D18). -/
  staleWindow : Nat
  /-- EXTERNAL_WRITERS (D17). -/
  externalWriters : Bool
  /-- The populated regions, a launch parameter (R62, D17). -/
  memMap : List Region
  deriving DecidableEq, Repr

/-- The defaults of R5. The default map populates the whole space with RAM. DESIGN CHOICE, unsafe:
log entries 1, 2, 4, 5, 6, 8, 9, 16, 18, 19, 20, 39. -/
def Config.default : Config where
  xlen := .w32
  byteOrder := .little
  branchScale := 2
  shortCallOp4 := some 0x9#4
  riEncoding := some 0x0012#16
  rotateThroughCarry := false
  subCarrySense := .borrow
  trsSrFullWrite := true
  nmiTrigger := .edge
  staleWindow := 2
  externalWriters := false
  memMap := [⟨0, 2 ^ 32, true⟩]

/-- VER_VALUE (R5, 10_state.md R34): the read-only content of the version register. -/
def Config.verValue : Word := 0x01000100#32

/-- VECTOR_BASE (R5, 20_memory.md R71), before it is cut to W bits (D23). -/
def Config.vectorBase : Word := 0xFFFFFF80#32

/-- What a byte of memory that nothing has written reads as: DESIGN CHOICE, unsafe, log entry 36. -/
def Config.unwrittenByte : Byte := 0x00#8

/-- The free values: what RESET_REGS leaves "any value" behind a hardware reset
(70_reset_and_hazards.md R310, R311). Nothing constrains them; log entry 25. -/
opaque Config.freeWord (n : Nat) : Word

end Sys2Proof
end

