-- ==== Sys2Proof/Syntax.lean ====
section
/-! DEFINITION. The instructions: one constructor for each row of spec/opcode_table.json.

Operand fields are the encoding's own fields (30_encoding.md R91 to R99): register numbers, the raw
constant nibble, displacement bits. Rows that only spell a core instruction's words another way
(30_encoding.md R118) have constructors of their own; `Instr.core` says which instruction the
machine sees (log entry 35). -/

namespace Sys2Proof

/-- A register number, r0 to r15 (10_state.md R21, 30_encoding.md R100). -/
abbrev RegNo := BitVec 4

/-- The defined special registers (10_state.md R28). Codes 2 and 4 to 15 are reserved: the decoder
rejects them (R115). -/
inductive Spr where
  | sr
  | ilr
  | ver
  deriving DecidableEq, Repr

inductive Instr where
  -- format misc (R92, R111)
  | brk
  | sys
  | irq
  | nmi
  | reset
  | ei
  | di
  | nop
  | stop
  | endMark
  | trc
  | dbg
  | ri
  | rti (n : BitVec 4)
  -- format rrc, major opcode 1 (R93)
  | addI (rd rs : RegNo) (n : BitVec 4)
  | lea (rd rs : RegNo) (n : BitVec 4)
  | subI (rd rs : RegNo) (n : BitVec 4)
  | cmpI (rs : RegNo) (n : BitVec 4)
  -- format rr, major opcode 2 (R94, R112)
  | addR (rd rs : RegNo)
  | adcR (rd rs : RegNo)
  | subR (rd rs : RegNo)
  | sbcR (rd rs : RegNo)
  | xorR (rd rs : RegNo)
  | andR (rd rs : RegNo)
  | orR (rd rs : RegNo)
  | cmpR (rd rs : RegNo)
  | zxb (rd : RegNo)
  | zxc (rd : RegNo)
  | sxb (rd : RegNo)
  | sxc (rd : RegNo)
  -- format rc, major opcode 3 (R95, R113)
  | adcI (rd : RegNo) (n : BitVec 4)
  | subrI (rd : RegNo) (n : BitVec 4)
  | sbcI (rd : RegNo) (n : BitVec 4)
  | xorI (rd : RegNo) (n : BitVec 4)
  | andI (rd : RegNo) (n : BitVec 4)
  | orI (rd : RegNo) (n : BitVec 4)
  | negR (rd : RegNo)
  | notR (rd : RegNo)
  | shl (rd : RegNo)
  | rol (rd : RegNo)
  | shr (rd : RegNo)
  | asr (rd : RegNo)
  | ror (rd : RegNo)
  | tsr (rd : RegNo) (spr : Spr)
  | trs (rd : RegNo) (spr : Spr)
  -- format cp, major opcodes 4 and 5 (R96)
  | cp0 (c : BitVec 12)
  | cp1 (c : BitVec 12)
  -- format rrc, major opcode 8 (R93)
  | jal (rd rs : RegNo) (n : BitVec 4)
  | jmp (rs : RegNo) (n : BitVec 4)
  | callR (rs : RegNo) (n : BitVec 4)
  | ret
  -- format sc (R99)
  | callS (a : BitVec 12)
  -- format br, major opcodes A and B (R97, R114); d is the nine-bit displacement
  | blt (d : BitVec 9)
  | bge (d : BitVec 9)
  | ble (d : BitVec 9)
  | bgt (d : BitVec 9)
  | bltu (d : BitVec 9)
  | bgeu (d : BitVec 9)
  | bleu (d : BitVec 9)
  | bgtu (d : BitVec 9)
  | beq (d : BitVec 9)
  | bne (d : BitVec 9)
  | bmi (d : BitVec 9)
  | bpl (d : BitVec 9)
  | bra (d : BitVec 9)
  | bsr (d : BitVec 9)
  | callPc (d : BitVec 9)
  -- formats rrc and rrd3, major opcodes C to F (R93, R98); in rrd3, d holds displacement bits 3..1
  | sb (rd rs : RegNo) (n : BitVec 4)
  | sc (rd rs : RegNo) (d : BitVec 3)
  | sw (rd rs : RegNo) (d : BitVec 3)
  | lb (rd rs : RegNo) (n : BitVec 4)
  | lc (rd rs : RegNo) (d : BitVec 3)
  | lw (rd rs : RegNo) (d : BitVec 3)
  deriving DecidableEq, Repr

/-- The instruction the hardware sees: for a row that is "an alternate form of" another (R118), that
other one; else the instruction itself. -/
def Instr.core : Instr → Instr
  | .lea rd rs n => .addI rd rs n
  | .subI rd rs n => .addI rd rs n
  | .cmpI rs n => .addI 0x0#4 rs n
  | .negR rd => .subrI rd 0x0#4
  | .notR rd => .xorI rd 0xF#4
  | .jmp rs n => .jal 0x0#4 rs n
  | .callR rs n => .jal 0xF#4 rs n
  | .ret => .jal 0x0#4 0xF#4 0x0#4
  | .callPc d => .bsr d
  | i => i

/-- Why a character is no instruction: the rows of 30_encoding.md R115, each by name. -/
inductive DecodeError where
  /-- Major opcodes 6 and 7, and 9 when it is not the short CALL's. -/
  | majorReserved (op : BitVec 4)
  /-- 0x0002 to 0x000A: the reserved vectors 2 to 10. -/
  | vectorReserved (v : BitVec 4)
  /-- Any other unassigned character of format misc. -/
  | miscUnassigned (w : Char16)
  /-- Major opcode 2 with an unassigned function code. -/
  | rrUnassigned (f3 : BitVec 4)
  /-- Major opcode 2, function E, with bits 7..4 = 4 to F. -/
  | extensionUnassigned (f2 : BitVec 4)
  /-- Major opcode 3 with function 0, 7 or D. -/
  | rcUnassigned (f2 : BitVec 4)
  /-- A shift or rotate whose low nibble is not 0001 (R176). -/
  | shiftNibble (f3 : BitVec 4)
  /-- TSR or TRS with special-register code 2 or 4 to 15 (10_state.md R35). -/
  | sprReserved (code : BitVec 4)
  /-- Branch condition codes C and D (R196). -/
  | conditionReserved (code : BitVec 4)
  /-- Fewer bytes than one character. -/
  | truncated
  deriving DecidableEq, Repr

end Sys2Proof
end

