-- ==== Sys2Proof/WellFormed.lean ====
section
/-! DEFINITION. Which instructions a configuration can encode.

The types of `Instr` already rule out a reserved special register and an odd displacement of LC, LW,
SC and SW. What is left to check hangs on the two parameters that are encodings: RI_ENCODING and
SHORT_CALL_OP4 (00_scope.md R5, D5, D6). -/

namespace Sys2Proof

/-- The characters of format misc that R111 gives to an instruction other than RI. -/
def miscAssigned (w : Char16) : Bool :=
  w == 0x0000#16 || w == 0x0001#16 || w == 0x000B#16 || w == 0x000C#16 || w == 0x000D#16 ||
  w == 0x000E#16 || w == 0x000F#16 || w == 0x0010#16 || w == 0x0011#16 || w == 0x0020#16 ||
  w == 0x0021#16 || w == 0x0022#16 || w.extractLsb' 4 12 == 0x004#12

/-- RI can be encoded: RI_ENCODING names a character of format misc (R92, R220) that no other
instruction has. -/
def riEncodable (cfg : Config) : Bool :=
  match cfg.riEncoding with
  | none => false
  | some w => w.extractLsb' 12 4 == 0x0#4 && !miscAssigned w

/-- The short CALL can be encoded: SHORT_CALL_OP4 names a major opcode that no other instruction
has (R99, R110). -/
def shortCallEncodable (cfg : Config) : Bool :=
  match cfg.shortCallOp4 with
  | none => false
  | some op => op == 0x6#4 || op == 0x7#4 || op == 0x9#4

/-- The configuration has an encoding for the instruction. -/
def WellFormed (cfg : Config) : Instr → Bool
  | .ri => riEncodable cfg
  | .callS _ => shortCallEncodable cfg
  | _ => true

end Sys2Proof
end

