-- ==== Sys2Proof/Decode.lean ====
section
/-! DEFINITION. The decoder (30_encoding.md R90 to R115) and the encoder.

Decoding is total: a character is an instruction or is rejected with the row of R115 it falls under.
A row of R118 is decoded to its core instruction: "the hardware cannot tell" (R133), log entry 35. -/

namespace Sys2Proof

/-! ## Fields (R91) -/

/-- Bits 15..12, the major opcode `op`. -/
def fieldOp (w : Char16) : BitVec 4 := w.extractLsb' 12 4
/-- Bits 11..8, `f1`: usually Rd. -/
def fieldF1 (w : Char16) : BitVec 4 := w.extractLsb' 8 4
/-- Bits 7..4, `f2`: usually Rs or a function code. -/
def fieldF2 (w : Char16) : BitVec 4 := w.extractLsb' 4 4
/-- Bits 3..0, `f3`: usually the constant or a function code. -/
def fieldF3 (w : Char16) : BitVec 4 := w.extractLsb' 0 4
/-- Bits 11..0: the constant of CP (R96), the target of the short CALL (R99). -/
def fieldLow12 (w : Char16) : BitVec 12 := w.extractLsb' 0 12
/-- Bits 3..1: the displacement of format rrd3 (R98). -/
def fieldD3 (w : Char16) : BitVec 3 := w.extractLsb' 1 3
/-- Bit 0: character (0) or word (1) in format rrd3 (R98). -/
def fieldSize (w : Char16) : BitVec 1 := w.extractLsb' 0 1
/-- Bits 12 and 7..0: the displacement of format br (R97, R109). -/
def fieldD9 (w : Char16) : BitVec 9 := w.extractLsb' 12 1 ++ w.extractLsb' 0 8

/-! ## The opcode maps -/

/-- Major opcode 0, the whole character (R111). -/
def decodeMisc (cfg : Config) (w : Char16) : Except DecodeError Instr :=
  match w with
  | 0x0000#16 => .ok .brk
  | 0x0001#16 => .ok .sys
  | 0x000B#16 => .ok .trc
  | 0x000C#16 => .ok .dbg
  | 0x000D#16 => .ok .irq
  | 0x000E#16 => .ok .nmi
  | 0x000F#16 => .ok .reset
  | 0x0010#16 => .ok .ei
  | 0x0011#16 => .ok .di
  | 0x0020#16 => .ok .nop
  | 0x0021#16 => .ok .stop
  | 0x0022#16 => .ok .endMark
  | _ =>
    if w.extractLsb' 4 12 = 0x004#12 then .ok (.rti (fieldF3 w))
    else if cfg.riEncoding = some w then .ok .ri
    else if w.extractLsb' 4 12 = 0x000#12 then .error (.vectorReserved (fieldF3 w))
    else .error (.miscUnassigned w)

/-- Major opcode 2, function E: the extension instructions, by bits 7..4 (R112). -/
def decodeExtension (rd f2 : BitVec 4) : Except DecodeError Instr :=
  match f2 with
  | 0x0#4 => .ok (.zxb rd)
  | 0x1#4 => .ok (.zxc rd)
  | 0x2#4 => .ok (.sxb rd)
  | 0x3#4 => .ok (.sxc rd)
  | _ => .error (.extensionUnassigned f2)

/-- Major opcode 2, by bits 3..0 (R112). -/
def decodeRR (rd rs f3 : BitVec 4) : Except DecodeError Instr :=
  match f3 with
  | 0x0#4 => .ok (.addR rd rs)
  | 0x1#4 => .ok (.adcR rd rs)
  | 0x2#4 => .ok (.subR rd rs)
  | 0x3#4 => .ok (.sbcR rd rs)
  | 0x4#4 => .ok (.xorR rd rs)
  | 0x5#4 => .ok (.andR rd rs)
  | 0x6#4 => .ok (.orR rd rs)
  | 0xD#4 => .ok (.cmpR rd rs)
  | 0xE#4 => decodeExtension rd rs
  | _ => .error (.rrUnassigned f3)

/-- A shift or rotate has the fixed low nibble 0001 (R95, R113). -/
def decodeShift (i : Instr) (f3 : BitVec 4) : Except DecodeError Instr :=
  if f3 = 0x1#4 then .ok i else .error (.shiftNibble f3)

/-- The special-register codes (10_state.md R28, 30_encoding.md R101). -/
def decodeSpr (code : BitVec 4) : Except DecodeError Spr :=
  match code with
  | 0x0#4 => .ok .sr
  | 0x1#4 => .ok .ilr
  | 0x3#4 => .ok .ver
  | _ => .error (.sprReserved code)

/-- Major opcode 3, by bits 7..4 (R113). -/
def decodeRC (rd f2 f3 : BitVec 4) : Except DecodeError Instr :=
  match f2 with
  | 0x1#4 => .ok (.adcI rd f3)
  | 0x2#4 => .ok (.subrI rd f3)
  | 0x3#4 => .ok (.sbcI rd f3)
  | 0x4#4 => .ok (.xorI rd f3)
  | 0x5#4 => .ok (.andI rd f3)
  | 0x6#4 => .ok (.orI rd f3)
  | 0x8#4 => decodeShift (.shl rd) f3
  | 0x9#4 => decodeShift (.rol rd) f3
  | 0xA#4 => decodeShift (.shr rd) f3
  | 0xB#4 => decodeShift (.asr rd) f3
  | 0xC#4 => decodeShift (.ror rd) f3
  | 0xE#4 => (decodeSpr f3).map (.tsr rd)
  | 0xF#4 => (decodeSpr f3).map (.trs rd)
  | _ => .error (.rcUnassigned f2)

/-- Major opcodes A and B, by the condition code (R114). -/
def decodeBranch (code : BitVec 4) (d : BitVec 9) : Except DecodeError Instr :=
  match code with
  | 0x0#4 => .ok (.blt d)
  | 0x1#4 => .ok (.bge d)
  | 0x2#4 => .ok (.ble d)
  | 0x3#4 => .ok (.bgt d)
  | 0x4#4 => .ok (.bltu d)
  | 0x5#4 => .ok (.bgeu d)
  | 0x6#4 => .ok (.bleu d)
  | 0x7#4 => .ok (.bgtu d)
  | 0x8#4 => .ok (.beq d)
  | 0x9#4 => .ok (.bne d)
  | 0xA#4 => .ok (.bmi d)
  | 0xB#4 => .ok (.bpl d)
  | 0xE#4 => .ok (.bra d)
  | 0xF#4 => .ok (.bsr d)
  | _ => .error (.conditionReserved code)

/-- One character, by the major opcode (R110). The short CALL has the major opcode that
SHORT_CALL_OP4 names, where R110 gives that opcode to nothing else (R99). -/
def decodeChar (cfg : Config) (w : Char16) : Except DecodeError Instr :=
  match fieldOp w with
  | 0x0#4 => decodeMisc cfg w
  | 0x1#4 => .ok (.addI (fieldF1 w) (fieldF2 w) (fieldF3 w))
  | 0x2#4 => decodeRR (fieldF1 w) (fieldF2 w) (fieldF3 w)
  | 0x3#4 => decodeRC (fieldF1 w) (fieldF2 w) (fieldF3 w)
  | 0x4#4 => .ok (.cp0 (fieldLow12 w))
  | 0x5#4 => .ok (.cp1 (fieldLow12 w))
  | 0x8#4 => .ok (.jal (fieldF1 w) (fieldF2 w) (fieldF3 w))
  | 0xA#4 => decodeBranch (fieldF1 w) (fieldD9 w)
  | 0xB#4 => decodeBranch (fieldF1 w) (fieldD9 w)
  | 0xC#4 => .ok (.sb (fieldF1 w) (fieldF2 w) (fieldF3 w))
  | 0xD#4 =>
    if fieldSize w = 0x0#1 then .ok (.sc (fieldF1 w) (fieldF2 w) (fieldD3 w))
    else .ok (.sw (fieldF1 w) (fieldF2 w) (fieldD3 w))
  | 0xE#4 => .ok (.lb (fieldF1 w) (fieldF2 w) (fieldF3 w))
  | 0xF#4 =>
    if fieldSize w = 0x0#1 then .ok (.lc (fieldF1 w) (fieldF2 w) (fieldD3 w))
    else .ok (.lw (fieldF1 w) (fieldF2 w) (fieldD3 w))
  | op =>
    if cfg.shortCallOp4 = some op then .ok (.callS (fieldLow12 w))
    else .error (.majorReserved op)

/-! ## Bytes -/

/-- The character whose byte at the lower address is `b0` (20_memory.md R63). -/
def charOfBytes (order : ByteOrder) (b0 b1 : Byte) : Char16 :=
  match order with
  | .little => b1 ++ b0
  | .big => b0 ++ b1

/-- The bytes of a character, the one at the lower address first (20_memory.md R63). -/
def bytesOfChar (order : ByteOrder) (w : Char16) : Byte × Byte :=
  match order with
  | .little => (w.extractLsb' 0 8, w.extractLsb' 8 8)
  | .big => (w.extractLsb' 8 8, w.extractLsb' 0 8)

/-- One instruction from the front of a list of bytes, and the bytes behind it. -/
def decodeBytes (cfg : Config) : List Byte → Except DecodeError (Instr × List Byte)
  | b0 :: b1 :: rest =>
    (decodeChar cfg (charOfBytes cfg.byteOrder b0 b1)).map (fun i => (i, rest))
  | _ => .error .truncated

/-- The instruction that the default configuration's decoder reads from an opcode-table word. -/
def decodeTableWord (nbits w : Nat) : Option Instr :=
  let bytes := bytesOfChar Config.default.byteOrder (BitVec.ofNat 16 (w % 2 ^ nbits))
  match decodeBytes Config.default [bytes.1, bytes.2] with
  | .ok (i, _) => some i
  | .error _ => none

/-! ## The encoder -/

/-- Four nibbles, most significant first (R91). -/
def nibbles (op f1 f2 f3 : BitVec 4) : Char16 := op ++ f1 ++ f2 ++ f3

/-- Formats cp and sc: a major opcode and twelve bits (R96, R99). -/
def opLow12 (op : BitVec 4) (c : BitVec 12) : Char16 := op ++ c

/-- Format rrd3 (R98). -/
def rrd3 (op rd rs : BitVec 4) (d : BitVec 3) (size : BitVec 1) : Char16 :=
  op ++ rd ++ rs ++ d ++ size

/-- Format br: 101, d8, the condition code, d7..0 (R97). -/
def branchChar (code : BitVec 4) (d : BitVec 9) : Char16 :=
  0b101#3 ++ d.extractLsb' 8 1 ++ code ++ d.extractLsb' 0 8

/-- The code of a special register (10_state.md R28). -/
def encodeSpr : Spr → BitVec 4
  | .sr => 0x0#4
  | .ilr => 0x1#4
  | .ver => 0x3#4

/-- The one character of an instruction (R90 to R99, R110 to R114, R118). For RI and the short CALL
the configuration names the pattern; without one the default's stands (such an instruction is not
`WellFormed`). -/
def encode (cfg : Config) : Instr → Char16
  | .brk => 0x0000#16
  | .sys => 0x0001#16
  | .trc => 0x000B#16
  | .dbg => 0x000C#16
  | .irq => 0x000D#16
  | .nmi => 0x000E#16
  | .reset => 0x000F#16
  | .ei => 0x0010#16
  | .di => 0x0011#16
  | .ri => cfg.riEncoding.getD 0x0012#16
  | .nop => 0x0020#16
  | .stop => 0x0021#16
  | .endMark => 0x0022#16
  | .rti n => nibbles 0x0#4 0x0#4 0x4#4 n
  | .addI rd rs n => nibbles 0x1#4 rd rs n
  | .lea rd rs n => nibbles 0x1#4 rd rs n
  | .subI rd rs n => nibbles 0x1#4 rd rs n
  | .cmpI rs n => nibbles 0x1#4 0x0#4 rs n
  | .addR rd rs => nibbles 0x2#4 rd rs 0x0#4
  | .adcR rd rs => nibbles 0x2#4 rd rs 0x1#4
  | .subR rd rs => nibbles 0x2#4 rd rs 0x2#4
  | .sbcR rd rs => nibbles 0x2#4 rd rs 0x3#4
  | .xorR rd rs => nibbles 0x2#4 rd rs 0x4#4
  | .andR rd rs => nibbles 0x2#4 rd rs 0x5#4
  | .orR rd rs => nibbles 0x2#4 rd rs 0x6#4
  | .cmpR rd rs => nibbles 0x2#4 rd rs 0xD#4
  | .zxb rd => nibbles 0x2#4 rd 0x0#4 0xE#4
  | .zxc rd => nibbles 0x2#4 rd 0x1#4 0xE#4
  | .sxb rd => nibbles 0x2#4 rd 0x2#4 0xE#4
  | .sxc rd => nibbles 0x2#4 rd 0x3#4 0xE#4
  | .adcI rd n => nibbles 0x3#4 rd 0x1#4 n
  | .subrI rd n => nibbles 0x3#4 rd 0x2#4 n
  | .sbcI rd n => nibbles 0x3#4 rd 0x3#4 n
  | .xorI rd n => nibbles 0x3#4 rd 0x4#4 n
  | .andI rd n => nibbles 0x3#4 rd 0x5#4 n
  | .orI rd n => nibbles 0x3#4 rd 0x6#4 n
  | .negR rd => nibbles 0x3#4 rd 0x2#4 0x0#4
  | .notR rd => nibbles 0x3#4 rd 0x4#4 0xF#4
  | .shl rd => nibbles 0x3#4 rd 0x8#4 0x1#4
  | .rol rd => nibbles 0x3#4 rd 0x9#4 0x1#4
  | .shr rd => nibbles 0x3#4 rd 0xA#4 0x1#4
  | .asr rd => nibbles 0x3#4 rd 0xB#4 0x1#4
  | .ror rd => nibbles 0x3#4 rd 0xC#4 0x1#4
  | .tsr rd spr => nibbles 0x3#4 rd 0xE#4 (encodeSpr spr)
  | .trs rd spr => nibbles 0x3#4 rd 0xF#4 (encodeSpr spr)
  | .cp0 c => opLow12 0x4#4 c
  | .cp1 c => opLow12 0x5#4 c
  | .jal rd rs n => nibbles 0x8#4 rd rs n
  | .jmp rs n => nibbles 0x8#4 0x0#4 rs n
  | .callR rs n => nibbles 0x8#4 0xF#4 rs n
  | .ret => 0x80F0#16
  | .callS a => opLow12 (cfg.shortCallOp4.getD 0x9#4) a
  | .blt d => branchChar 0x0#4 d
  | .bge d => branchChar 0x1#4 d
  | .ble d => branchChar 0x2#4 d
  | .bgt d => branchChar 0x3#4 d
  | .bltu d => branchChar 0x4#4 d
  | .bgeu d => branchChar 0x5#4 d
  | .bleu d => branchChar 0x6#4 d
  | .bgtu d => branchChar 0x7#4 d
  | .beq d => branchChar 0x8#4 d
  | .bne d => branchChar 0x9#4 d
  | .bmi d => branchChar 0xA#4 d
  | .bpl d => branchChar 0xB#4 d
  | .bra d => branchChar 0xE#4 d
  | .bsr d => branchChar 0xF#4 d
  | .callPc d => branchChar 0xF#4 d
  | .sb rd rs n => nibbles 0xC#4 rd rs n
  | .sc rd rs d => rrd3 0xD#4 rd rs d 0x0#1
  | .sw rd rs d => rrd3 0xD#4 rd rs d 0x1#1
  | .lb rd rs n => nibbles 0xE#4 rd rs n
  | .lc rd rs d => rrd3 0xF#4 rd rs d 0x0#1
  | .lw rd rs d => rrd3 0xF#4 rd rs d 0x1#1

end Sys2Proof
end

