-- ==== Sys2Proof/Machine/State.lean ====
section
/-! DEFINITION. The state of the machine (10_state.md R20 to R43), the ways a step can stop, and the
state right after reset (R42).

State is plain data. Fields that are the model's own, not the spec's, say so and name their log
entry. -/

namespace Sys2Proof.Machine

/-- Memory: the bytes that differ from `Config.unwrittenByte`, by rising address (20_memory.md R63,
log entry 36). -/
abbrev Memory := List Host.Cell

/-- Faults: none. The core has no synchronous fault exception (60_exceptions.md R272), so nothing
raises one; log entry 41. -/
inductive Fault where
  deriving DecidableEq, Repr

/-- What the spec calls `refuse`: situations its sources give no meaning. Every one of them is safe:
the model stops where the hardware would go on in a way nobody has described. -/
inductive Refusal where
  /-- An instruction of the table that has no meaning yet; raised by `exec` only. Safe. -/
  | notModelled (mnemonic : String)
  /-- The fetched character is reserved or unassigned (30_encoding.md R115, D13); raised by the step
  behind the fetch. Safe. -/
  | reservedEncoding (e : DecodeError)
  /-- The pc is odd at a fetch (20_memory.md R67, D12); raised by the fetch. Safe. -/
  | oddPc (pc : Word)
  /-- The first fetch behind a store that wrote into its IFETCH_STALE_WINDOW (20_memory.md R80, D18,
  log entry 20); raised by the fetch. Safe. -/
  | staleFetch (pc : Word)
  /-- A fetch, load or store at an address the platform does not populate (20_memory.md R62, D17).
  Safe. -/
  | unpopulated (a : Word)
  /-- A store to ROM (20_memory.md R62, D17); raised by SB, SC and SW. Safe. -/
  | romStore (a : Word)
  /-- LC or LW at an odd address (20_memory.md R65, D12). Safe. -/
  | misalignedLoad (a : Word)
  /-- SC or SW at an odd address (20_memory.md R65, D12). Safe. -/
  | misalignedStore (a : Word)
  /-- An instruction with no constant field behind a constant prefix (30_encoding.md R108, D14);
  raised by every such instruction. Safe. -/
  | prefixedNonConstant
  /-- CP behind a constant prefix (46_misc.md R252, D14); raised by CP. Safe. -/
  | prefixAfterPrefix
  /-- An instruction where the constant character of a size-1 CP is due (46_misc.md R251). No step
  raises it, since the step takes that character as data; log entry 43. Safe. -/
  | constantDue
  /-- The short CALL in the last character of a bank (43_flow_control.md R199, D5). Safe. -/
  | bankEdgeCall (pc : Word)
  /-- CP with size bit 1, LW, SW or TSR VER in the sixteen-bit version, to which the source gives
  them no meaning (D23). Safe. -/
  | only32Bit
  deriving DecidableEq, Repr

/-- The constant-prefix state (10_state.md R36). -/
inductive Cpfx where
  /-- No prefix pending. -/
  | none
  /-- A CP with size bit 1 has been executed; the next character holds constant bits 31..16. -/
  | half (c12 : BitVec 12)
  /-- Constant bits 31..4 wait for the next instruction (in the sixteen-bit version bits 15..4 are
  used). -/
  | ready (u : BitVec 28)
  deriving DecidableEq, Repr

/-- One sample of the inputs the environment drives (00_scope.md R14). -/
structure Inputs where
  rst : Bool
  nmi : Bool
  irq : Bool
  go : Bool
  deriving DecidableEq, Repr

/-- The state of one core, its memory, and what the environment has in store for it. -/
structure State where
  /-- r0 to r15 (R21); slot 0 is r0, which is read as zero and never written (R22). -/
  regs : Vector Word 16
  /-- The program counter (R25). -/
  pc : Word
  /-- The status register: working flags in bits 7..0, their backup in bits 15..8 (R29). -/
  sr : BitVec 16
  /-- The interrupt link register (R33). -/
  ilr : Word
  /-- The constant-prefix state (R36). -/
  cpfx : Cpfx
  /-- The stopped flag (R37). -/
  stopped : Bool
  /-- The level of `irq` as last sampled (R38). -/
  irq : Bool
  /-- The pending bit of `nmi` (R38). -/
  nmiPending : Bool
  /-- Memory (R39). -/
  mem : Memory
  /-- MODEL'S OWN: the level of `nmi` as last sampled, for its edge (R283, log entry 17). -/
  nmiLine : Bool
  /-- MODEL'S OWN: the environment's coming samples, one a step; when none is left `rst` and `go`
  are low and `irq` and `nmi` keep their levels (log entry 17). -/
  env : List Inputs
  /-- MODEL'S OWN: the coming bursts of another bus master, one before each memory transfer of the
  core when EXTERNAL_WRITERS is on (20_memory.md R69, R76, log entry 18). -/
  bus : List (List (Word × Byte))
  /-- MODEL'S OWN: the last store wrote into the window behind it, and nothing has been fetched since
  (20_memory.md R80, log entry 20). -/
  stale : Bool
  /-- MODEL'S OWN: how many free values have been handed out (log entry 25). -/
  free : Nat
  /-- MODEL'S OWN: the parameters of 00_scope.md R5, fixed for a run (R43, log entry 37). -/
  cfg : Config
  deriving DecidableEq, Repr

/-- What a step and a meaning answer. -/
abbrev Out := Host.Outcome State Fault Refusal

/-- The machine right after reset (R42): the pc at vector 15, the mask set, no prefix, not stopped,
no NMI pending. What R42 calls "any value" is zero here: DESIGN CHOICE, unsafe, log entry 24. -/
def State.reset : State where
  regs := Vector.replicate 16 0x00000000#32
  pc := 0xFFFFFFF8#32
  sr := 0x0080#16
  ilr := 0x00000000#32
  cpfx := .none
  stopped := false
  irq := false
  nmiPending := false
  mem := []
  nmiLine := false
  env := []
  bus := []
  stale := false
  free := 0
  cfg := Config.default

end Sys2Proof.Machine
end

