-- ==== Sys2Proof/Machine/Ops.lean ====
section
/-! DEFINITION. The named operations over registers, memory and the bus, the entry into a system call
(60_exceptions.md R275), the return from one (R290), and the hardware reset (70_reset_and_hazards.md
R310). -/

namespace Sys2Proof.Machine

/-! ## Width and registers -/

/-- A value modulo 2^W (00_scope.md R7, 10_state.md R27). -/
def State.fit (s : State) (v : Word) : Word := s.cfg.xlen.fit v

/-- `x[i]` (00_scope.md R8): r0 reads as zero (10_state.md R22). -/
def State.readReg (s : State) (i : RegNo) : Word :=
  if i = 0x0#4 then 0x00000000#32 else s.regs[i.toNat]

/-- `x[i] <- v` (00_scope.md R8): a write to r0 is discarded (10_state.md R22). -/
def State.writeReg (s : State) (i : RegNo) (v : Word) : State :=
  { s with regs := if i = 0x0#4 then s.regs else s.regs.set i.toNat (s.fit v) }

/-- `pc <- t` (00_scope.md R8), modulo 2^W (10_state.md R27). -/
def State.jump (s : State) (t : Word) : State := { s with pc := s.fit t }

/-! ## Memory as data -/

/-- The byte at an address. -/
def Memory.read : Memory → Nat → Byte
  | [], _ => Config.unwrittenByte
  | (k, v) :: m, a => if a = k then v else Memory.read m a

/-- Memory with one byte changed, in canonical form. -/
def Memory.write : Memory → Nat → Byte → Memory
  | [], a, b => if b = Config.unwrittenByte then [] else [(a, b)]
  | (k, v) :: m, a, b =>
    if a < k then
      if b = Config.unwrittenByte then (k, v) :: m else (a, b) :: (k, v) :: m
    else if a = k then
      if b = Config.unwrittenByte then m else (a, b) :: m
    else (k, v) :: Memory.write m a b

/-- The canonical form, from an address on: addresses strictly rising and below 2^32, no entry that an
unlisted address would read as anyway. -/
def Memory.wfFrom : Nat → Memory → Bool
  | _, [] => true
  | low, (k, v) :: m =>
    decide (low ≤ k) && decide (k < 2 ^ 32) && decide (v ≠ Config.unwrittenByte)
      && Memory.wfFrom (k + 1) m

/-- The canonical form of memory. -/
def Memory.wf (m : Memory) : Bool := Memory.wfFrom 0 m

/-! ## Memory access (20_memory.md R63) -/

/-- The address `k` bytes on, modulo 2^W. -/
def State.offset (s : State) (a : Word) (k : Nat) : Word := s.fit (a + BitVec.ofNat 32 k)

/-- `MemRead(a, 1)`. -/
def State.readByte (s : State) (a : Word) : Byte := Memory.read s.mem a.toNat

/-- `MemRead(a, 2)`, in the byte order of the configuration. -/
def State.readChar (s : State) (a : Word) : Char16 :=
  charOfBytes s.cfg.byteOrder (s.readByte a) (s.readByte (s.offset a 1))

/-- A word from its two characters, the one at the lower address first. -/
def wordOfChars (order : ByteOrder) (c0 c1 : Char16) : Word :=
  match order with
  | .little => c1 ++ c0
  | .big => c0 ++ c1

/-- The two characters of a word, the one at the lower address first. -/
def charsOfWord (order : ByteOrder) (w : Word) : Char16 × Char16 :=
  match order with
  | .little => (w.extractLsb' 0 16, w.extractLsb' 16 16)
  | .big => (w.extractLsb' 16 16, w.extractLsb' 0 16)

/-- `MemRead(a, 4)` of a memory that nobody else writes meanwhile. -/
def State.readWord (s : State) (a : Word) : Word :=
  wordOfChars s.cfg.byteOrder (s.readChar a) (s.readChar (s.offset a 2))

/-- `MemWrite(a, 1, b)`. -/
def State.writeByte (s : State) (a : Word) (b : Byte) : State :=
  { s with mem := Memory.write s.mem a.toNat b }

/-- `MemWrite(a, 2, c)`. -/
def State.writeChar (s : State) (a : Word) (c : Char16) : State :=
  let bytes := bytesOfChar s.cfg.byteOrder c
  { s with mem := Memory.write (Memory.write s.mem a.toNat bytes.1) (s.offset a 1).toNat bytes.2 }

/-! ## The bus (20_memory.md R69, R76)

Before each transfer of the core another bus master has its turn; a word is two transfers, lower
address first. -/

/-- Another master's writes, in order. -/
def Memory.writeBurst (x : Xlen) : Memory → List (Word × Byte) → Memory
  | m, [] => m
  | m, (a, b) :: ws => Memory.writeBurst x (Memory.write m (x.fit a).toNat b) ws

/-- Another master's turn before a transfer: its next burst, when EXTERNAL_WRITERS is on. -/
def State.turn (s : State) : State :=
  { s with
    mem := if s.cfg.externalWriters then
        Memory.writeBurst s.cfg.xlen s.mem (s.bus.head?.getD []) else s.mem
    bus := if s.cfg.externalWriters then s.bus.tail else s.bus }

/-- A load of one byte: its value and the state behind the transfer. -/
def State.loadByte (s : State) (a : Word) : Byte × State := (s.turn.readByte a, s.turn)

/-- A load of one character. -/
def State.loadChar (s : State) (a : Word) : Char16 × State := (s.turn.readChar a, s.turn)

/-- A load of one word: two character transfers, `a` then `a + 2`. -/
def State.loadWord (s : State) (a : Word) : Word × State :=
  (wordOfChars s.cfg.byteOrder (s.turn.readChar a) (s.turn.turn.readChar (s.offset a 2)),
    s.turn.turn)

/-- A store of one byte. -/
def State.storeByte (s : State) (a : Word) (b : Byte) : State := s.turn.writeByte a b

/-- A store of one character. -/
def State.storeChar (s : State) (a : Word) (c : Char16) : State := s.turn.writeChar a c

/-- A store of one word: two character transfers, `a` then `a + 2`. -/
def State.storeWord (s : State) (a : Word) (w : Word) : State :=
  let chars := charsOfWord s.cfg.byteOrder w
  ((s.turn.writeChar a chars.1).turn).writeChar (s.offset a 2) chars.2

/-! ## Which accesses are refused (20_memory.md R62, R65) -/

/-- The addresses of an access of `n` bytes at `a`. -/
def State.span (s : State) (a : Word) (n : Nat) : List Word := (List.range n).map (s.offset a)

/-- The address lies in the region. -/
def Region.holds (r : Region) (a : Word) : Bool :=
  decide (r.base ≤ a.toNat) && decide (a.toNat < r.base + r.size)

/-- The platform populates the address (R62). -/
def State.populated (s : State) (a : Word) : Bool := s.cfg.memMap.any (Region.holds · a)

/-- The platform populates the address with RAM (R62). -/
def State.writable (s : State) (a : Word) : Bool :=
  s.cfg.memMap.any (fun r => Region.holds r a && r.writable)

/-- An odd address (R64). -/
def isOdd (a : Word) : Bool := a.getLsbD 0

/-- Why a load of `n` bytes at `a` is refused, if it is. -/
def State.loadRefusal (s : State) (a : Word) (n : Nat) : Option Refusal :=
  if n ≠ 1 ∧ isOdd a then some (.misalignedLoad a)
  else if (s.span a n).all s.populated then none
  else some (.unpopulated a)

/-- Why a store of `n` bytes at `a` is refused, if it is. -/
def State.storeRefusal (s : State) (a : Word) (n : Nat) : Option Refusal :=
  if n ≠ 1 ∧ isOdd a then some (.misalignedStore a)
  else if (s.span a n).all s.populated then
    if (s.span a n).all s.writable then none else some (.romStore a)
  else some (.unpopulated a)

/-- A store of `n` bytes at `a` by the instruction in front of `pc` writes into the window of
IFETCH_STALE_WINDOW bytes (R80). -/
def State.hitsWindow (s : State) (a : Word) (n : Nat) : Bool :=
  (s.span a n).any (fun b => decide ((s.fit (b - s.pc)).toNat < s.cfg.staleWindow))

/-- Notes for the next fetch whether the store wrote into its window (R80). -/
def State.noteStale (s : State) (b : Bool) : State := { s with stale := b }

/-! ## The status register (10_state.md R29 to R32) -/

def State.flagZ (s : State) : Bool := s.sr.getLsbD 0
def State.flagC (s : State) : Bool := s.sr.getLsbD 1
def State.flagV (s : State) : Bool := s.sr.getLsbD 2
def State.flagN (s : State) : Bool := s.sr.getLsbD 3
def State.flagI (s : State) : Bool := s.sr.getLsbD 7

/-- `SR.work`, bits 7..0. -/
def srWork (sr : BitVec 16) : Byte := sr.extractLsb' 0 8

/-- `SR.backup`, bits 15..8. -/
def srBackup (sr : BitVec 16) : Byte := sr.extractLsb' 8 8

/-- The bits of SR that exist: the reserved bits read as zero and ignore writes (R32). -/
def srDefined : BitVec 16 := 0x8F8F#16

/-- SR with the bits of `mask` taken from `v` and the others kept. -/
def blend (sr mask v : BitVec 16) : BitVec 16 := (sr &&& ~~~mask) ||| (v &&& mask)

/-- Writes the bits of SR that `mask` names. -/
def State.maskSr (s : State) (mask v : BitVec 16) : State := { s with sr := blend s.sr mask v }

/-! ## System calls (60_exceptions.md R275, R290) -/

/-- SR behind an entry: the working half copied to the backup half, then I set (R275). -/
def srEnter (sr : BitVec 16) : BitVec 16 := srWork sr ++ (srWork sr ||| 0x80#8)

/-- SR behind a return: the backup half copied to the working half (R221). -/
def srReturn (sr : BitVec 16) : BitVec 16 := srBackup sr ++ srBackup sr

/-- The entry address of a vector: VECTOR_BASE + 8 * v (20_memory.md R71). -/
def State.vectorAddr (s : State) (v : BitVec 4) : Word :=
  s.fit (Config.vectorBase + BitVec.ofNat 32 (8 * v.toNat))

/-- `raise SysCall(v)` with return address `ret` (60_exceptions.md R275). -/
def State.sysCall (s : State) (v : BitVec 4) (ret : Word) : State :=
  { s with ilr := ret, sr := srEnter s.sr, pc := s.vectorAddr v }

/-- The return from a system call, `d` bytes past ILR (44_interrupt_management.md R221). -/
def State.sysReturn (s : State) (d : Word) : State :=
  { s with pc := s.fit (s.ilr + d), sr := srReturn s.sr }

/-! ## Hardware reset (70_reset_and_hazards.md R310) -/

/-- The register file behind a hardware reset: r0 zero, every other register a free value. -/
def freeRegs (x : Xlen) (k : Nat) : Vector Word 16 :=
  Vector.ofFn (fun i : Fin 16 =>
    if i.val = 0 then 0x00000000#32 else x.fit (Config.freeWord (k + i.val)))

/-- The reset that the `rst` input makes (R310): what R310 calls "any value" is a free value (log
entry 25); memory is untouched (R311), and so is the note of a stale fetch, since nothing is fetched
(20_memory.md R80, log entry 20). -/
def State.hardwareReset (s : State) : State :=
  { s with
    regs := freeRegs s.cfg.xlen s.free
    pc := s.vectorAddr 0xF#4
    sr := ((Config.freeWord (s.free + 17)).extractLsb' 0 16 &&& srDefined) ||| 0x0080#16
    ilr := s.fit (Config.freeWord (s.free + 16))
    cpfx := .none
    stopped := false
    nmiPending := false
    free := s.free + 18 }

end Sys2Proof.Machine
end

