-- ==== Sys2Proof/Machine/Flags.lean ====
section
/-! DEFINITION. The flag computations (00_scope.md R10 to R12, 42_shifts.md R170) and the branch tests
(43_flow_control.md R181), for both widths and both settings of SUB_CARRY_SENSE. -/

namespace Sys2Proof.Machine

/-- A result with the four flags it gives. -/
structure AluOut where
  value : Word
  n : Bool
  v : Bool
  c : Bool
  z : Bool
  deriving DecidableEq, Repr

/-- `signed(v)` for a W-bit value (R7). -/
def signedOf (x : Xlen) (v : Word) : Int :=
  if v.toNat < 2 ^ (x.bits - 1) then (v.toNat : Int) else (v.toNat : Int) - 2 ^ x.bits

/-- The integer lies in [-2^(W-1), 2^(W-1) - 1]: no signed overflow (R10, R11). -/
def inSignedRange (x : Xlen) (d : Int) : Bool :=
  decide (-(2 ^ (x.bits - 1)) ≤ d) && decide (d ≤ 2 ^ (x.bits - 1) - 1)

/-- `v[W-1]` (R7). -/
def msbOf (x : Xlen) (v : Word) : Bool := v.getLsbD (x.bits - 1)

/-- `add_flags(a, b, cin)` (R10). -/
def addFlags (x : Xlen) (a b : Word) (cin : Bool) : AluOut :=
  let s := a.toNat + b.toNat + cin.toNat
  let r : Word := BitVec.ofNat 32 (s % 2 ^ x.bits)
  { value := r
    n := msbOf x r
    v := !inSignedRange x (signedOf x a + signedOf x b + cin.toNat)
    c := decide (2 ^ x.bits ≤ s)
    z := r == 0x00000000#32 }

/-- What C holds of a borrow (R11, D34). -/
def carryOfBorrow (sense : CarrySense) (borrow : Bool) : Bool :=
  match sense with
  | .borrow => borrow
  | .notBorrow => !borrow

/-- `sub_flags(a, b, bin)` (R11). -/
def subFlags (x : Xlen) (sense : CarrySense) (a b : Word) (bin : Bool) : AluOut :=
  let d : Int := (a.toNat : Int) - (b.toNat : Int) - (bin.toNat : Int)
  let r : Word := BitVec.ofInt 32 (d % 2 ^ x.bits)
  { value := r
    n := msbOf x r
    v := !inSignedRange x (signedOf x a - signedOf x b - bin.toNat)
    c := carryOfBorrow sense (decide (d < 0))
    z := r == 0x00000000#32 }

/-- The borrow-in of SBC: C, or its complement under not_borrow (R11, 40_arithmetic.md R140). -/
def State.borrowIn (s : State) : Bool := carryOfBorrow s.cfg.subCarrySense s.flagC

/-- The addition of the machine's width. -/
def State.add (s : State) (a b : Word) (cin : Bool) : AluOut := addFlags s.cfg.xlen a b cin

/-- The subtraction of the machine's width and carry sense. -/
def State.sub (s : State) (a b : Word) (bin : Bool) : AluOut :=
  subFlags s.cfg.xlen s.cfg.subCarrySense a b bin

/-- N, V, C, Z in their places, SR bits 3 to 0 (10_state.md R29). -/
def flagBits (n v c z : Bool) : BitVec 16 :=
  (BitVec.ofBool n ++ BitVec.ofBool v ++ BitVec.ofBool c ++ BitVec.ofBool z : BitVec 4).setWidth 16

/-- Writes N, V, C and Z. -/
def State.setNVCZ (s : State) (o : AluOut) : State :=
  s.maskSr 0x000F#16 (flagBits o.n o.v o.c o.z)

/-- `set_NZ(r)` (R12). -/
def State.setNZ (s : State) (r : Word) : State :=
  s.maskSr 0x0009#16 (flagBits (msbOf s.cfg.xlen r) false false (r == 0x00000000#32))

/-- A shift's flags: C the bit shifted out, N and Z from the result (42_shifts.md R170). -/
def State.setNCZ (s : State) (r : Word) (c : Bool) : State :=
  s.maskSr 0x000B#16 (flagBits (msbOf s.cfg.xlen r) false c (r == 0x00000000#32))

/-- Writes I. -/
def State.setI (s : State) (b : Bool) : State :=
  s.maskSr 0x0080#16 (if b then 0x0080#16 else 0x0000#16)

/-! ## Branch tests (43_flow_control.md R181)

Codes 4 to 7 have the Bcc page's tests under SUB_CARRY_SENSE = borrow and those of the section
"Branches" under not_borrow (90_conflicts.md C1). -/

def State.testLT (s : State) : Bool := s.flagN ^^ s.flagV
def State.testGE (s : State) : Bool := !(s.flagN ^^ s.flagV)
def State.testLE (s : State) : Bool := (s.flagN ^^ s.flagV) || s.flagZ
def State.testGT (s : State) : Bool := !((s.flagN ^^ s.flagV) || s.flagZ)

def State.testLTU (s : State) : Bool :=
  match s.cfg.subCarrySense with
  | .borrow => s.flagC
  | .notBorrow => !s.flagC && !s.flagZ

def State.testGEU (s : State) : Bool :=
  match s.cfg.subCarrySense with
  | .borrow => !s.flagC
  | .notBorrow => s.flagC || s.flagZ

def State.testLEU (s : State) : Bool :=
  match s.cfg.subCarrySense with
  | .borrow => s.flagC || s.flagZ
  | .notBorrow => !s.flagC || s.flagZ

def State.testGTU (s : State) : Bool :=
  match s.cfg.subCarrySense with
  | .borrow => !(s.flagC || s.flagZ)
  | .notBorrow => s.flagC && !s.flagZ

def State.testEQ (s : State) : Bool := s.flagZ
def State.testNE (s : State) : Bool := !s.flagZ
def State.testMI (s : State) : Bool := s.flagN
def State.testPL (s : State) : Bool := !s.flagN

end Sys2Proof.Machine
end

