-- ==== Sys2Proof/Machine/Operands.lean ====
section
/-! DEFINITION. Operands: the constant and its prefix (30_encoding.md R102 to R108), sign and zero
extension (00_scope.md R8), effective addresses (45_memory_ops.md R230), branch displacements
(30_encoding.md R109), and the special registers (10_state.md R28, R35). -/

namespace Sys2Proof.Machine

/-- `sext_N(v)`: sign extension to W bits (R8). -/
def sextTo (x : Xlen) {n : Nat} (v : BitVec n) : Word := x.fit (v.signExtend 32)

/-- `zext_N(v)`: zero extension to W bits (R8). -/
def zextTo (x : Xlen) {n : Nat} (v : BitVec n) : Word := x.fit (v.setWidth 32)

/-- `c4dec(n)`: the four-bit constant, -4 to 11 (R103). -/
def c4dec (n : BitVec 4) : Int := if n.toNat ≤ 11 then (n.toNat : Int) else (n.toNat : Int) - 16

/-- The raw nibble of format rrd3: displacement bit 0 is zero (R107). -/
def rawD3 (d : BitVec 3) : BitVec 4 := d ++ 0x0#1

/-- The constant of the current instruction, from its raw nibble and the prefix state (R104 to R106);
none where a constant character is due instead of an instruction. -/
def State.constant (s : State) (raw : BitVec 4) : Option Word :=
  match s.cpfx with
  | .none => some (s.fit (BitVec.ofInt 32 (c4dec raw)))
  | .ready u => some (s.fit (u ++ raw))
  | .half _ => none

/-- `cpfx <- None`. -/
def State.clearCpfx (s : State) : State := { s with cpfx := .none }

/-- An instruction that takes a constant: `k` gets the constant and the state with the prefix used up
(R108). -/
def State.withConstant (s : State) (raw : BitVec 4) (k : Word → State → Out) : Out :=
  match s.constant raw with
  | some c => k c s.clearCpfx
  | none => .refused .constantDue

/-- An instruction that takes no constant: refused behind a prefix (R108, 46_misc.md R251). -/
def State.withoutPrefix (s : State) (k : Out) : Out :=
  match s.cpfx with
  | .none => k
  | .ready _ => .refused .prefixedNonConstant
  | .half _ => .refused .constantDue

/-- The effective address `x[Rs] + imm` (45_memory_ops.md R230). -/
def State.ea (s : State) (rs : RegNo) (imm : Word) : Word := s.fit (s.readReg rs + imm)

/-- The target of a branch (R109, 43_flow_control.md R180). -/
def State.branchTarget (s : State) (d : BitVec 9) : Word :=
  s.fit (s.pc + BitVec.ofInt 32 (d.toInt * s.cfg.branchScale))

/-- `if test then pc <- pc + off` (43_flow_control.md R180). -/
def State.branchIf (s : State) (test : Bool) (d : BitVec 9) : State :=
  if test then s.jump (s.branchTarget d) else s

/-- Writes a register and the four arithmetic flags. -/
def State.writeAlu (s : State) (rd : RegNo) (o : AluOut) : State :=
  (s.writeReg rd o.value).setNVCZ o

/-- Writes a register and N and Z. -/
def State.writeNZ (s : State) (rd : RegNo) (r : Word) : State := (s.writeReg rd r).setNZ r

/-- Writes a register and a shift's flags. -/
def State.writeNCZ (s : State) (rd : RegNo) (r : Word) (c : Bool) : State :=
  (s.writeReg rd r).setNCZ r c

/-- The value of a special register (46_misc.md R256); VER has none in the sixteen-bit version
(D23). -/
def State.readSpr (s : State) : Spr → Except Refusal Word
  | .sr => .ok (zextTo s.cfg.xlen s.sr)
  | .ilr => .ok s.ilr
  | .ver =>
    match s.cfg.xlen with
    | .w32 => .ok Config.verValue
    | .w16 => .error .only32Bit

/-- The write of a special register (46_misc.md R257): VER is read only. -/
def State.writeSpr (s : State) (spr : Spr) (v : Word) : State :=
  match spr with
  | .sr =>
    if s.cfg.trsSrFullWrite then { s with sr := v.extractLsb' 0 16 &&& srDefined }
    else s.maskSr 0x000F#16 (v.extractLsb' 0 16)
  | .ilr => { s with ilr := s.fit v }
  | .ver => s

end Sys2Proof.Machine
end

