-- ==== Sys2Proof/Machine/Cycle.lean ====
section
/-! DEFINITION. The frame of one step (00_scope.md R14): sampling the inputs, hardware reset, the
stopped core, hardware interrupts (60_exceptions.md R280 to R287), fetching and decoding. Step.lean
only puts these together. -/

namespace Sys2Proof.Machine

/-! ## Inputs -/

/-- The inputs at this step: the environment's next sample; when none is left `rst` and `go` are low
and the levels stay (log entry 17). -/
def State.inputsNow (s : State) : Inputs :=
  match s.env with
  | e :: _ => e
  | [] => ⟨false, s.nmiLine, s.irq, false⟩

/-- The NMI pending bit behind a sample (60_exceptions.md R283): set by a rising edge, or equal to the
level, by NMI_TRIGGER. -/
def State.nmiPendingAfter (s : State) (nmi : Bool) : Bool :=
  match s.cfg.nmiTrigger with
  | .edge => s.nmiPending || (nmi && !s.nmiLine)
  | .level => nmi

/-- The state with this step's inputs sampled (10_state.md R38). -/
def State.sample (s : State) : State :=
  { s with
    env := s.env.tail
    irq := s.inputsNow.irq
    nmiLine := s.inputsNow.nmi
    nmiPending := s.nmiPendingAfter s.inputsNow.nmi }

/-! ## Hardware interrupts -/

/-- Taking the NMI (R283): the pending bit is cleared in edge mode; the return address is the current
pc (R284). No character is fetched, so a note of a stale fetch stands (20_memory.md R80, log entry
20). -/
def State.takeNmi (s : State) : State :=
  { s.sysCall 0xE#4 s.pc with
    nmiPending := match s.cfg.nmiTrigger with
      | .edge => false
      | .level => s.nmiPending }

/-- Taking the IRQ (R281, R284). No character is fetched, so a note of a stale fetch stands. -/
def State.takeIrq (s : State) : State := s.sysCall 0xD#4 s.pc

/-- The interrupt recognised at an instruction boundary, taken: NMI before IRQ (R285), neither while a
prefix is pending (R282), IRQ only when I is clear (R281). -/
def State.interrupted (s : State) : Option State :=
  if s.cpfx = .none then
    if s.nmiPending then some s.takeNmi
    else if s.irq && !s.flagI then some s.takeIrq
    else none
  else none

/-- A step of a stopped core (46_misc.md R253): the NMI wakes it and is taken, else `go` restarts it,
else nothing happens; `irq` does not wake it. -/
def State.stoppedStep (s : State) (go : Bool) : State :=
  if s.nmiPending then { s with stopped := false }.takeNmi
  else if go then { s with stopped := false }
  else s

/-! ## Fetch -/

/-- Why the fetch at the pc is refused, if it is (20_memory.md R62, R67, R80). -/
def State.fetchRefusal (s : State) : Option Refusal :=
  if isOdd s.pc then some (.oddPc s.pc)
  else if s.stale then some (.staleFetch s.pc)
  else if (s.span s.pc 2).all s.populated then none
  else some (.unpopulated s.pc)

/-- The character fetched (20_memory.md R66): one bus transfer. -/
def State.fetchedChar (s : State) : Char16 := s.turn.readChar s.pc

/-- The state behind the fetch: the pc advanced (10_state.md R26). -/
def State.fetched (s : State) : State := s.turn.jump (s.pc + 2)

/-! ## What a step does -/

/-- What the frame of R14 finds to do. -/
inductive Task where
  /-- The step is over: a reset, a stopped core, an interrupt taken, a constant character. -/
  | done (t : State)
  /-- The step is refused. -/
  | stop (r : Refusal)
  /-- An instruction runs, on the state behind its fetch. -/
  | run (i : Instr) (t : State)
  deriving DecidableEq, Repr

/-- The character at the pc: constant data of a size-1 prefix (46_misc.md R251), or an instruction. -/
def State.fetchTask (s : State) : Task :=
  match s.fetchRefusal with
  | some r => .stop r
  | none =>
    match s.cpfx with
    | .half c12 => .done { s.fetched with cpfx := .ready (s.fetchedChar ++ c12) }
    | _ =>
      match decodeChar s.cfg s.fetchedChar with
      | .ok i => .run i s.fetched
      | .error e => .stop (.reservedEncoding e)

/-- The frame of one step, on a state whose inputs are sampled (R14). -/
def State.taskOf (s : State) (now : Inputs) : Task :=
  if now.rst then .done s.hardwareReset
  else if s.stopped then .done (s.stoppedStep now.go)
  else
    match s.interrupted with
    | some t => .done t
    | none => s.fetchTask

/-- The frame of one step. -/
def State.task (s : State) : Task := s.sample.taskOf s.inputsNow

/-- The state with a character stored where the next step fetches, and nothing in the way of that
fetch: no prefix, not stopped, no input asserted or to come, no other master's burst, nothing
stale. -/
def State.placeChar (s : State) (w : Char16) : State :=
  { s.writeChar s.pc w with
    cpfx := .none
    stopped := false
    irq := false
    nmiPending := false
    nmiLine := false
    env := []
    bus := []
    stale := false }

end Sys2Proof.Machine
end

