-- ==== Sys2Proof/Machine/Arith.lean ====
section
/-! DEFINITION. Addition, subtraction and comparison (40_arithmetic.md R130 to R145). -/

namespace Sys2Proof.Machine

/-- `Rd <- x[Rs] + imm` with the flags of the addition (R132): what ADD immediate, LEA, SUB immediate
and CMP immediate all are (R133 to R136). -/
def addConstant (rd rs : RegNo) (n : BitVec 4) (s : State) : Out :=
  s.withConstant n fun imm t => .next (t.writeAlu rd (t.add (t.readReg rs) imm false))

/-- `Rd <- imm - x[Rd]` (R142, R143). -/
def reverseSubtract (rd : RegNo) (n : BitVec 4) (s : State) : Out :=
  s.withConstant n fun imm t => .next (t.writeAlu rd (t.sub imm (t.readReg rd) false))

/-- ADD Rd,Rs,#n (R132). -/
def execAddI (rd rs : RegNo) (n : BitVec 4) (s : State) : Out := addConstant rd rs n s

/-- LEA Rd,d[Rs] (R134): no memory access. -/
def execLea (rd rs : RegNo) (n : BitVec 4) (s : State) : Out := addConstant rd rs n s

/-- SUB Rd,Rs,#n (R135): the constant in the encoding is already negated; the flags are the ADD's
(R133). -/
def execSubI (rd rs : RegNo) (n : BitVec 4) (s : State) : Out := addConstant rd rs n s

/-- CMP Rs,#n (R136): the addition with Rd = r0. -/
def execCmpI (rs : RegNo) (n : BitVec 4) (s : State) : Out := addConstant 0x0#4 rs n s

/-- ADD Rd,Rs (R131). -/
def execAddR (rd rs : RegNo) (s : State) : Out :=
  s.withoutPrefix (.next (s.writeAlu rd (s.add (s.readReg rd) (s.readReg rs) false)))

/-- ADC Rd,Rs (R137). -/
def execAdcR (rd rs : RegNo) (s : State) : Out :=
  s.withoutPrefix (.next (s.writeAlu rd (s.add (s.readReg rd) (s.readReg rs) s.flagC)))

/-- SUB Rd,Rs (R139). -/
def execSubR (rd rs : RegNo) (s : State) : Out :=
  s.withoutPrefix (.next (s.writeAlu rd (s.sub (s.readReg rd) (s.readReg rs) false)))

/-- SBC Rd,Rs (R140). -/
def execSbcR (rd rs : RegNo) (s : State) : Out :=
  s.withoutPrefix (.next (s.writeAlu rd (s.sub (s.readReg rd) (s.readReg rs) s.borrowIn)))

/-- CMP Rd,Rs (R144): the flags only. -/
def execCmpR (rd rs : RegNo) (s : State) : Out :=
  s.withoutPrefix (.next (s.setNVCZ (s.sub (s.readReg rd) (s.readReg rs) false)))

/-- ADC Rd,#n (R138). -/
def execAdcI (rd : RegNo) (n : BitVec 4) (s : State) : Out :=
  s.withConstant n fun imm t => .next (t.writeAlu rd (t.add (t.readReg rd) imm t.flagC))

/-- SBC Rd,#n (R141). -/
def execSbcI (rd : RegNo) (n : BitVec 4) (s : State) : Out :=
  s.withConstant n fun imm t => .next (t.writeAlu rd (t.sub (t.readReg rd) imm t.borrowIn))

/-- SUBR Rd,#n (R142). -/
def execSubrI (rd : RegNo) (n : BitVec 4) (s : State) : Out := reverseSubtract rd n s

/-- NEG Rd (R143): SUBR with the constant nibble 0. -/
def execNegR (rd : RegNo) (s : State) : Out := reverseSubtract rd 0x0#4 s

end Sys2Proof.Machine
end

