-- ==== Sys2Proof/Machine/Flow.lean ====
section
/-! DEFINITION. Program flow control (43_flow_control.md R180 to R205). No instruction of this family
writes a flag. In every meaning `s.pc` is the address behind the instruction (00_scope.md R9). -/

namespace Sys2Proof.Machine

/-- A conditional branch with its test (R180). -/
def branchOn (test : State → Bool) (d : BitVec 9) (s : State) : Out :=
  s.withoutPrefix (.next (s.branchIf (test s) d))

/-- BLT (R182). -/
def execBlt (d : BitVec 9) (s : State) : Out := branchOn State.testLT d s
/-- BGE (R183). -/
def execBge (d : BitVec 9) (s : State) : Out := branchOn State.testGE d s
/-- BLE (R184). -/
def execBle (d : BitVec 9) (s : State) : Out := branchOn State.testLE d s
/-- BGT (R185). -/
def execBgt (d : BitVec 9) (s : State) : Out := branchOn State.testGT d s
/-- BLTU (R186). -/
def execBltu (d : BitVec 9) (s : State) : Out := branchOn State.testLTU d s
/-- BGEU (R187). -/
def execBgeu (d : BitVec 9) (s : State) : Out := branchOn State.testGEU d s
/-- BLEU (R188). -/
def execBleu (d : BitVec 9) (s : State) : Out := branchOn State.testLEU d s
/-- BGTU (R189). -/
def execBgtu (d : BitVec 9) (s : State) : Out := branchOn State.testGTU d s
/-- BEQ (R190). -/
def execBeq (d : BitVec 9) (s : State) : Out := branchOn State.testEQ d s
/-- BNE (R191). -/
def execBne (d : BitVec 9) (s : State) : Out := branchOn State.testNE d s
/-- BMI (R192). -/
def execBmi (d : BitVec 9) (s : State) : Out := branchOn State.testMI d s
/-- BPL (R193). -/
def execBpl (d : BitVec 9) (s : State) : Out := branchOn State.testPL d s
/-- BRA (R195). -/
def execBra (d : BitVec 9) (s : State) : Out := branchOn (fun _ => true) d s

/-- The relative call: r15 gets the return address (R194, R201). -/
def relativeCall (d : BitVec 9) (s : State) : Out :=
  s.withoutPrefix (.next ((s.writeReg 0xF#4 s.pc).jump (s.branchTarget d)))

/-- BSR (R194). -/
def execBsr (d : BitVec 9) (s : State) : Out := relativeCall d s

/-- CALL d9[pc] (R201): BSR under another spelling. -/
def execCallPc (d : BitVec 9) (s : State) : Out := relativeCall d s

/-- `Rd <- pc; pc <- x[Rs] + imm` (R197), the target from the old Rs (00_scope.md R13). -/
def jumpAndLink (rd rs : RegNo) (n : BitVec 4) (s : State) : Out :=
  s.withConstant n fun imm t => .next ((t.writeReg rd t.pc).jump (t.ea rs imm))

/-- JAL Rd,d[Rs] (R197). -/
def execJal (rd rs : RegNo) (n : BitVec 4) (s : State) : Out := jumpAndLink rd rs n s

/-- JMP d[Rs] (R198): JAL with Rd = r0. -/
def execJmp (rs : RegNo) (n : BitVec 4) (s : State) : Out := jumpAndLink 0x0#4 rs n s

/-- CALL d[Rs] (R200): JAL with Rd = r15. -/
def execCallR (rs : RegNo) (n : BitVec 4) (s : State) : Out := jumpAndLink 0xF#4 rs n s

/-- RET (R202): JAL with Rd = r0, Rs = r15, constant nibble 0. -/
def execRet (s : State) : Out := jumpAndLink 0x0#4 0xF#4 0x0#4 s

/-- The short CALL's target `{ pc[W-1:16], a11..0, 0000 }` (30_encoding.md R120, R199). -/
def State.bankTarget (s : State) (a : BitVec 12) : Word :=
  s.fit (s.pc.extractLsb' 16 16 ++ a ++ 0x0#4)

/-- The short CALL is the last character of its bank: in the thirty-two bit version the source does
not say whose upper bits are kept (R199); in the sixteen-bit version there are none (D23). -/
def State.atBankEdge (s : State) : Bool :=
  match s.cfg.xlen with
  | .w32 => s.pc.extractLsb' 0 16 == 0x0000#16
  | .w16 => false

/-- The short CALL (R199). -/
def execCallS (a : BitVec 12) (s : State) : Out :=
  s.withoutPrefix
    (if s.atBankEdge then .refused (.bankEdgeCall s.pc)
     else .next ((s.writeReg 0xF#4 s.pc).jump (s.bankTarget a)))

end Sys2Proof.Machine
end

