-- ==== Sys2Proof/Machine/Interrupt.lean ====
section
/-! DEFINITION. Interrupt management instructions (44_interrupt_management.md R210 to R223). The return
address of a system-call instruction is `s.pc`, the address behind it (00_scope.md R9). -/

namespace Sys2Proof.Machine

/-- A system-call instruction: `raise SysCall(v)` (R210, 60_exceptions.md R275). -/
def callVector (v : BitVec 4) (s : State) : Out := s.withoutPrefix (.next (s.sysCall v s.pc))

/-- BRK (R211). -/
def execBrk (s : State) : Out := callVector 0x0#4 s
/-- SYS (R212). -/
def execSys (s : State) : Out := callVector 0x1#4 s
/-- TRC (R213). -/
def execTrc (s : State) : Out := callVector 0xB#4 s
/-- DBG (R214). -/
def execDbg (s : State) : Out := callVector 0xC#4 s
/-- NMI (R216): whatever I is; the pending bit of the input is not touched. -/
def execNmi (s : State) : Out := callVector 0xE#4 s
/-- RESET (R217): a system call, not a hardware reset (70_reset_and_hazards.md R312). -/
def execReset (s : State) : Out := callVector 0xF#4 s

/-- IRQ (R215): ignored when I is set. -/
def execIrq (s : State) : Out :=
  s.withoutPrefix (.next (if s.flagI then s else s.sysCall 0xD#4 s.pc))

/-- EI (R218). -/
def execEi (s : State) : Out := s.withoutPrefix (.next (s.setI false))

/-- DI (R219). -/
def execDi (s : State) : Out := s.withoutPrefix (.next (s.setI true))

/-- RI (R220): I from the I bit of the backup half. -/
def execRi (s : State) : Out := s.withoutPrefix (.next (s.setI (s.sr.getLsbD 15)))

/-- RTI (R221): the displacement through `c4dec`, in bytes, never extended by a prefix. -/
def execRti (n : BitVec 4) (s : State) : Out :=
  s.withoutPrefix (.next (s.sysReturn (BitVec.ofInt 32 (c4dec n))))

end Sys2Proof.Machine
end

