-- ==== Sys2Proof/Machine/LoadStore.lean ====
section
/-! DEFINITION. Memory operations (45_memory_ops.md R230 to R239). The displacement is a constant, so a
prefix may widen it; loads write N and Z, stores write no flag. -/

namespace Sys2Proof.Machine

/-- LB Rd,d[Rs] (R231). -/
def execLb (rd rs : RegNo) (n : BitVec 4) (s : State) : Out :=
  s.withConstant n fun imm t =>
    let a := t.ea rs imm
    match t.loadRefusal a 1 with
    | some r => .refused r
    | none => .next ((t.loadByte a).2.writeNZ rd (sextTo t.cfg.xlen (t.loadByte a).1))

/-- LC Rd,d[Rs] (R232). -/
def execLc (rd rs : RegNo) (d : BitVec 3) (s : State) : Out :=
  s.withConstant (rawD3 d) fun imm t =>
    let a := t.ea rs imm
    match t.loadRefusal a 2 with
    | some r => .refused r
    | none => .next ((t.loadChar a).2.writeNZ rd (sextTo t.cfg.xlen (t.loadChar a).1))

/-- LW Rd,d[Rs] (R233); without meaning in the sixteen-bit version (D23). -/
def execLw (rd rs : RegNo) (d : BitVec 3) (s : State) : Out :=
  s.withConstant (rawD3 d) fun imm t =>
    match t.cfg.xlen with
    | .w16 => .refused .only32Bit
    | .w32 =>
      let a := t.ea rs imm
      match t.loadRefusal a 4 with
      | some r => .refused r
      | none => .next ((t.loadWord a).2.writeNZ rd (t.loadWord a).1)

/-- SB Rd,d[Rs] (R234). -/
def execSb (rd rs : RegNo) (n : BitVec 4) (s : State) : Out :=
  s.withConstant n fun imm t =>
    let a := t.ea rs imm
    match t.storeRefusal a 1 with
    | some r => .refused r
    | none =>
      .next ((t.storeByte a ((t.readReg rd).extractLsb' 0 8)).noteStale (t.hitsWindow a 1))

/-- SC Rd,d[Rs] (R235). -/
def execSc (rd rs : RegNo) (d : BitVec 3) (s : State) : Out :=
  s.withConstant (rawD3 d) fun imm t =>
    let a := t.ea rs imm
    match t.storeRefusal a 2 with
    | some r => .refused r
    | none =>
      .next ((t.storeChar a ((t.readReg rd).extractLsb' 0 16)).noteStale (t.hitsWindow a 2))

/-- SW Rd,d[Rs] (R236); without meaning in the sixteen-bit version (D23). -/
def execSw (rd rs : RegNo) (d : BitVec 3) (s : State) : Out :=
  s.withConstant (rawD3 d) fun imm t =>
    match t.cfg.xlen with
    | .w16 => .refused .only32Bit
    | .w32 =>
      let a := t.ea rs imm
      match t.storeRefusal a 4 with
      | some r => .refused r
      | none => .next ((t.storeWord a (t.readReg rd)).noteStale (t.hitsWindow a 4))

end Sys2Proof.Machine
end

