-- ==== Sys2Proof/Machine/Logic.lean ====
section
/-! DEFINITION. Logical and extension operations (41_logical.md R150 to R161). All write N and Z. -/

namespace Sys2Proof.Machine

/-- `Rd <- x[Rd] XOR imm` (R156, R157). -/
def xorConstant (rd : RegNo) (n : BitVec 4) (s : State) : Out :=
  s.withConstant n fun imm t => .next (t.writeNZ rd (t.readReg rd ^^^ imm))

/-- AND Rd,Rs (R151). -/
def execAndR (rd rs : RegNo) (s : State) : Out :=
  s.withoutPrefix (.next (s.writeNZ rd (s.readReg rd &&& s.readReg rs)))

/-- OR Rd,Rs (R153). -/
def execOrR (rd rs : RegNo) (s : State) : Out :=
  s.withoutPrefix (.next (s.writeNZ rd (s.readReg rd ||| s.readReg rs)))

/-- XOR Rd,Rs (R155). -/
def execXorR (rd rs : RegNo) (s : State) : Out :=
  s.withoutPrefix (.next (s.writeNZ rd (s.readReg rd ^^^ s.readReg rs)))

/-- AND Rd,#n (R152). -/
def execAndI (rd : RegNo) (n : BitVec 4) (s : State) : Out :=
  s.withConstant n fun imm t => .next (t.writeNZ rd (t.readReg rd &&& imm))

/-- OR Rd,#n (R154). -/
def execOrI (rd : RegNo) (n : BitVec 4) (s : State) : Out :=
  s.withConstant n fun imm t => .next (t.writeNZ rd (t.readReg rd ||| imm))

/-- XOR Rd,#n (R156). -/
def execXorI (rd : RegNo) (n : BitVec 4) (s : State) : Out := xorConstant rd n s

/-- NOT Rd (R157): XOR with the constant nibble F. -/
def execNotR (rd : RegNo) (s : State) : Out := xorConstant rd 0xF#4 s

/-- ZXB Rd (R158). -/
def execZxb (rd : RegNo) (s : State) : Out :=
  s.withoutPrefix (.next (s.writeNZ rd (zextTo s.cfg.xlen ((s.readReg rd).extractLsb' 0 8))))

/-- ZXC Rd (R159). -/
def execZxc (rd : RegNo) (s : State) : Out :=
  s.withoutPrefix (.next (s.writeNZ rd (zextTo s.cfg.xlen ((s.readReg rd).extractLsb' 0 16))))

/-- SXB Rd (R160). -/
def execSxb (rd : RegNo) (s : State) : Out :=
  s.withoutPrefix (.next (s.writeNZ rd (sextTo s.cfg.xlen ((s.readReg rd).extractLsb' 0 8))))

/-- SXC Rd (R161). -/
def execSxc (rd : RegNo) (s : State) : Out :=
  s.withoutPrefix (.next (s.writeNZ rd (sextTo s.cfg.xlen ((s.readReg rd).extractLsb' 0 16))))

end Sys2Proof.Machine
end

