-- ==== Sys2Proof/Machine/Misc.lean ====
section
/-! DEFINITION. Constant prefix, STOP, NOP, END and the special register transfers (46_misc.md R250 to
R258). -/

namespace Sys2Proof.Machine

/-- CP: refused behind a prefix (R250, R252). -/
def withoutPriorPrefix (s : State) (k : Out) : Out :=
  match s.cpfx with
  | .none => k
  | .ready _ => .refused .prefixAfterPrefix
  | .half _ => .refused .constantDue

/-- CP with size bit 0 (R250): constant bits 15..4, sign extended. -/
def execCp0 (c : BitVec 12) (s : State) : Out :=
  withoutPriorPrefix s (.next { s with cpfx := .ready (c.signExtend 28) })

/-- CP with size bit 1 (R250); without meaning in the sixteen-bit version (D23). -/
def execCp1 (c : BitVec 12) (s : State) : Out :=
  withoutPriorPrefix s
    (match s.cfg.xlen with
     | .w32 => .next { s with cpfx := .half c }
     | .w16 => .refused .only32Bit)

/-- STOP (R253). -/
def execStop (s : State) : Out := s.withoutPrefix (.next { s with stopped := true })

/-- NOP (R254). -/
def execNop (s : State) : Out := s.withoutPrefix (.next s)

/-- END (R255): a NOP. -/
def execEndMark (s : State) : Out := s.withoutPrefix (.next s)

/-- TSR Rd,Spr (R256): no flag. -/
def execTsr (rd : RegNo) (spr : Spr) (s : State) : Out :=
  s.withoutPrefix
    (match s.readSpr spr with
     | .ok v => .next (s.writeReg rd v)
     | .error r => .refused r)

/-- TRS Rd,Spr (R257). -/
def execTrs (rd : RegNo) (spr : Spr) (s : State) : Out :=
  s.withoutPrefix (.next (s.writeSpr spr (s.readReg rd)))

end Sys2Proof.Machine
end

