-- ==== Sys2Proof/Machine/Shift.lean ====
section
/-! DEFINITION. Shifts and rotates by one bit (42_shifts.md R170 to R176). All write N, C and Z. -/

namespace Sys2Proof.Machine

/-- A bit at bit 0. -/
def lowBit (b : Bool) : Word := if b then 0x00000001#32 else 0x00000000#32

/-- A bit at bit W-1. -/
def topBit (x : Xlen) (b : Bool) : Word :=
  if b then 0x00000001#32 <<< (x.bits - 1) else 0x00000000#32

/-- `{ a[W-2:0], b }`. -/
def shiftLeftIn (x : Xlen) (a : Word) (b : Bool) : Word := x.fit (a <<< 1) ||| lowBit b

/-- `{ b, a[W-1:1] }`. -/
def shiftRightIn (x : Xlen) (a : Word) (b : Bool) : Word := (a >>> 1) ||| topBit x b

/-- SHL Rd,#1 (R171). -/
def execShl (rd : RegNo) (s : State) : Out :=
  let a := s.readReg rd
  s.withoutPrefix (.next
    (s.writeNCZ rd (shiftLeftIn s.cfg.xlen a false) (msbOf s.cfg.xlen a)))

/-- SHR Rd,#1 (R172). -/
def execShr (rd : RegNo) (s : State) : Out :=
  let a := s.readReg rd
  s.withoutPrefix (.next (s.writeNCZ rd (shiftRightIn s.cfg.xlen a false) (a.getLsbD 0)))

/-- ASR Rd,#1 (R173). -/
def execAsr (rd : RegNo) (s : State) : Out :=
  let a := s.readReg rd
  s.withoutPrefix (.next
    (s.writeNCZ rd (shiftRightIn s.cfg.xlen a (msbOf s.cfg.xlen a)) (a.getLsbD 0)))

/-- ROL Rd,#1 (R174); the entering bit by ROTATE_THROUGH_CARRY (D8). -/
def execRol (rd : RegNo) (s : State) : Out :=
  let a := s.readReg rd
  let entering := if s.cfg.rotateThroughCarry then s.flagC else msbOf s.cfg.xlen a
  s.withoutPrefix (.next
    (s.writeNCZ rd (shiftLeftIn s.cfg.xlen a entering) (msbOf s.cfg.xlen a)))

/-- ROR Rd,#1 (R175); the entering bit by ROTATE_THROUGH_CARRY (D8). -/
def execRor (rd : RegNo) (s : State) : Out :=
  let a := s.readReg rd
  let entering := if s.cfg.rotateThroughCarry then s.flagC else a.getLsbD 0
  s.withoutPrefix (.next (s.writeNCZ rd (shiftRightIn s.cfg.xlen a entering) (a.getLsbD 0)))

end Sys2Proof.Machine
end

