-- ==== Sys2Proof/Machine/Dispatch.lean ====
section
/-! DEFINITION. One arm per instruction: each calls its meaning. The state has the pc behind the
instruction (00_scope.md R9, R14). -/

namespace Sys2Proof.Machine

def exec (i : Instr) (s : State) : Host.Outcome State Fault Refusal :=
  match i with
  | .brk => Sys2Proof.Machine.execBrk s
  | .sys => Sys2Proof.Machine.execSys s
  | .irq => Sys2Proof.Machine.execIrq s
  | .nmi => Sys2Proof.Machine.execNmi s
  | .reset => Sys2Proof.Machine.execReset s
  | .ei => Sys2Proof.Machine.execEi s
  | .di => Sys2Proof.Machine.execDi s
  | .nop => Sys2Proof.Machine.execNop s
  | .stop => Sys2Proof.Machine.execStop s
  | .endMark => Sys2Proof.Machine.execEndMark s
  | .trc => Sys2Proof.Machine.execTrc s
  | .dbg => Sys2Proof.Machine.execDbg s
  | .ri => Sys2Proof.Machine.execRi s
  | .rti n => Sys2Proof.Machine.execRti n s
  | .addI rd rs n => Sys2Proof.Machine.execAddI rd rs n s
  | .lea rd rs n => Sys2Proof.Machine.execLea rd rs n s
  | .subI rd rs n => Sys2Proof.Machine.execSubI rd rs n s
  | .cmpI rs n => Sys2Proof.Machine.execCmpI rs n s
  | .addR rd rs => Sys2Proof.Machine.execAddR rd rs s
  | .adcR rd rs => Sys2Proof.Machine.execAdcR rd rs s
  | .subR rd rs => Sys2Proof.Machine.execSubR rd rs s
  | .sbcR rd rs => Sys2Proof.Machine.execSbcR rd rs s
  | .xorR rd rs => Sys2Proof.Machine.execXorR rd rs s
  | .andR rd rs => Sys2Proof.Machine.execAndR rd rs s
  | .orR rd rs => Sys2Proof.Machine.execOrR rd rs s
  | .cmpR rd rs => Sys2Proof.Machine.execCmpR rd rs s
  | .zxb rd => Sys2Proof.Machine.execZxb rd s
  | .zxc rd => Sys2Proof.Machine.execZxc rd s
  | .sxb rd => Sys2Proof.Machine.execSxb rd s
  | .sxc rd => Sys2Proof.Machine.execSxc rd s
  | .adcI rd n => Sys2Proof.Machine.execAdcI rd n s
  | .subrI rd n => Sys2Proof.Machine.execSubrI rd n s
  | .sbcI rd n => Sys2Proof.Machine.execSbcI rd n s
  | .xorI rd n => Sys2Proof.Machine.execXorI rd n s
  | .andI rd n => Sys2Proof.Machine.execAndI rd n s
  | .orI rd n => Sys2Proof.Machine.execOrI rd n s
  | .negR rd => Sys2Proof.Machine.execNegR rd s
  | .notR rd => Sys2Proof.Machine.execNotR rd s
  | .shl rd => Sys2Proof.Machine.execShl rd s
  | .rol rd => Sys2Proof.Machine.execRol rd s
  | .shr rd => Sys2Proof.Machine.execShr rd s
  | .asr rd => Sys2Proof.Machine.execAsr rd s
  | .ror rd => Sys2Proof.Machine.execRor rd s
  | .tsr rd spr => Sys2Proof.Machine.execTsr rd spr s
  | .trs rd spr => Sys2Proof.Machine.execTrs rd spr s
  | .cp0 c => Sys2Proof.Machine.execCp0 c s
  | .cp1 c => Sys2Proof.Machine.execCp1 c s
  | .jal rd rs n => Sys2Proof.Machine.execJal rd rs n s
  | .jmp rs n => Sys2Proof.Machine.execJmp rs n s
  | .callR rs n => Sys2Proof.Machine.execCallR rs n s
  | .ret => Sys2Proof.Machine.execRet s
  | .callS a => Sys2Proof.Machine.execCallS a s
  | .blt d => Sys2Proof.Machine.execBlt d s
  | .bge d => Sys2Proof.Machine.execBge d s
  | .ble d => Sys2Proof.Machine.execBle d s
  | .bgt d => Sys2Proof.Machine.execBgt d s
  | .bltu d => Sys2Proof.Machine.execBltu d s
  | .bgeu d => Sys2Proof.Machine.execBgeu d s
  | .bleu d => Sys2Proof.Machine.execBleu d s
  | .bgtu d => Sys2Proof.Machine.execBgtu d s
  | .beq d => Sys2Proof.Machine.execBeq d s
  | .bne d => Sys2Proof.Machine.execBne d s
  | .bmi d => Sys2Proof.Machine.execBmi d s
  | .bpl d => Sys2Proof.Machine.execBpl d s
  | .bra d => Sys2Proof.Machine.execBra d s
  | .bsr d => Sys2Proof.Machine.execBsr d s
  | .callPc d => Sys2Proof.Machine.execCallPc d s
  | .sb rd rs n => Sys2Proof.Machine.execSb rd rs n s
  | .sc rd rs d => Sys2Proof.Machine.execSc rd rs d s
  | .sw rd rs d => Sys2Proof.Machine.execSw rd rs d s
  | .lb rd rs n => Sys2Proof.Machine.execLb rd rs n s
  | .lc rd rs d => Sys2Proof.Machine.execLc rd rs d s
  | .lw rd rs d => Sys2Proof.Machine.execLw rd rs d s

end Sys2Proof.Machine
end

