-- ==== Sys2Proof/Machine/Step.lean ====
section
/-! DEFINITION. One step of the core (00_scope.md R14), and a state with a given instruction where the
next step fetches. -/

namespace Sys2Proof.Machine

/-- One step: the frame of R14 decides what there is to do; an instruction runs by `exec`. -/
def step (s : State) : Host.Outcome State Fault Refusal :=
  match s.task with
  | .done t => .next t
  | .stop r => .refused r
  | .run i t => exec i t

/-- `s` with the instruction of the low `nbits` bits of `w` stored where `step` fetches next; every
instruction is one character (30_encoding.md R90), the constant character behind a size-1 CP being a
step of its own (log entry 38). -/
def State.withFetchWord (s : State) (nbits w : Nat) : State :=
  s.placeChar (BitVec.ofNat 16 (w % 2 ^ nbits))

end Sys2Proof.Machine
end

