-- ==== Sys2Proof/Safety.lean ====
section
/-! DEFINITION. The terms in which statements about the machine are made: what a next state leaves
unchanged, the results of the arithmetic in integers, the state invariant, and which state an
instruction may change (10_state.md R24, R31, R33, R41). -/

namespace Sys2Proof.Machine

/-! ## What stays -/

/-- SR is unchanged outside the bits of `mask`. -/
def SrKept (s t : State) (mask : BitVec 16) : Prop := t.sr &&& ~~~mask = s.sr &&& ~~~mask

/-- Every register but `rd` is unchanged and `rd` holds `r`; r0 stays zero (10_state.md R22). -/
def WritesReg (s t : State) (rd : RegNo) (r : Word) : Prop :=
  ∀ q : RegNo, t.readReg q = if q = rd ∧ q ≠ 0x0#4 then r else s.readReg q

/-- Every register is unchanged. -/
def RegsKept (s t : State) : Prop := ∀ q : RegNo, t.readReg q = s.readReg q

/-- Every byte of memory is unchanged. -/
def MemKept (s t : State) : Prop := ∀ a : Word, t.readByte a = s.readByte a

/-- ILR, the stopped flag, the inputs, the environment, the free values and the parameters are
unchanged. -/
structure SystemKept (s t : State) : Prop where
  ilr : t.ilr = s.ilr
  stopped : t.stopped = s.stopped
  irq : t.irq = s.irq
  nmiPending : t.nmiPending = s.nmiPending
  nmiLine : t.nmiLine = s.nmiLine
  env : t.env = s.env
  bus : t.bus = s.bus
  free : t.free = s.free
  cfg : t.cfg = s.cfg

/-- Nothing but registers and SR is changed, and no prefix is left. -/
structure DataOnly (s t : State) : Prop where
  pc : t.pc = s.pc
  cpfx : t.cpfx = .none
  stale : t.stale = s.stale
  mem : MemKept s t
  system : SystemKept s t

/-- Nothing but registers and the pc is changed, and no prefix is left. -/
structure TransferOnly (s t : State) : Prop where
  sr : t.sr = s.sr
  cpfx : t.cpfx = .none
  stale : t.stale = s.stale
  mem : MemKept s t
  system : SystemKept s t

/-! ## Encodings (30_encoding.md R108, R118) -/

/-- Under every configuration `w` is the character of `i`; the decoder reads it as the core
instruction. -/
def Encodes (w : Char16) (i : Instr) : Prop :=
  ∀ cfg : Config, encode cfg i = w ∧ decodeChar cfg w = .ok i.core

/-- The instruction is refused behind a constant prefix (R108). -/
def NotPrefixable (i : Instr) : Prop :=
  ∀ (s : State) (u : BitVec 28), s.cpfx = .ready u → exec i s = .refused .prefixedNonConstant

/-- The target of a branch with displacement `d` (30_encoding.md R109): the pc behind the branch plus
the displacement in units of BRANCH_DISP_SCALE bytes. -/
def State.target (s : State) (d : BitVec 9) : Word :=
  s.fit (s.pc + BitVec.ofInt 32 (d.toInt * s.cfg.branchScale))

/-- `mk d` is the branch of condition code `code` whose test is `test` (43_flow_control.md R180): its
encoding, its refusal behind a prefix, and that it changes the pc to the target exactly when the test
holds, and nothing else. -/
def Branches (code : BitVec 4) (mk : BitVec 9 → Instr) (test : State → Bool) : Prop :=
  ∀ (s : State) (d : BitVec 9),
    Encodes (0b101#3 ++ d.extractLsb' 8 1 ++ code ++ d.extractLsb' 0 8) (mk d) ∧
    NotPrefixable (mk d) ∧
    (s.cpfx = .none →
      exec (mk d) s = .next { s with pc := if test s then s.target d else s.pc })

/-- Vector `v` is entered with return address `ret` (60_exceptions.md R275): ILR, SR and the pc are
written, everything else stays. -/
def State.entered (s : State) (v : Nat) (ret : Word) : State :=
  { s with
    ilr := ret
    sr := s.sr.extractLsb' 0 8 ++ (s.sr.extractLsb' 0 8 ||| 0x80#8)
    pc := s.fit (0xFFFFFF80#32 + BitVec.ofNat 32 (8 * v)) }

/-- `i`, with character `w`, calls vector `v`, returning to the address behind it. -/
def CallsVector (w : Char16) (i : Instr) (v : Nat) : Prop :=
  Encodes w i ∧ NotPrefixable i ∧
    ∀ s : State, s.cpfx = .none → exec i s = .next (s.entered v s.pc)

/-! ## Results in integers (00_scope.md R10, R11) -/

/-- `unsigned(a) + unsigned(b) + cin`. -/
def sumOf (a b : Word) (cin : Bool) : Nat := a.toNat + b.toNat + cin.toNat

/-- `unsigned(a) - unsigned(b) - bin`. -/
def diffOf (a b : Word) (bin : Bool) : Int := (a.toNat : Int) - (b.toNat : Int) - (bin.toNat : Int)

/-- The integer is outside what W bits hold as a signed number. -/
def SignedOverflow (x : Xlen) (d : Int) : Prop :=
  d < -(2 ^ (x.bits - 1)) ∨ 2 ^ (x.bits - 1) ≤ d

/-- N, V, C, Z are those of an addition, and nothing else in SR is changed (R10). -/
structure SumFlags (s t : State) (a b : Word) (cin : Bool) : Prop where
  n : t.flagN = true ↔ 2 ^ (s.cfg.xlen.bits - 1) ≤ sumOf a b cin % 2 ^ s.cfg.xlen.bits
  v : t.flagV = true ↔
    SignedOverflow s.cfg.xlen (signedOf s.cfg.xlen a + signedOf s.cfg.xlen b + cin.toNat)
  c : t.flagC = true ↔ 2 ^ s.cfg.xlen.bits ≤ sumOf a b cin
  z : t.flagZ = true ↔ sumOf a b cin % 2 ^ s.cfg.xlen.bits = 0
  kept : SrKept s t 0x000F#16

/-- N, V, C, Z are those of a subtraction, C in the sense of SUB_CARRY_SENSE, and nothing else in SR is
changed (R11). -/
structure DiffFlags (s t : State) (a b : Word) (bin : Bool) : Prop where
  n : t.flagN = true ↔ 2 ^ (s.cfg.xlen.bits - 1) ≤ diffOf a b bin % 2 ^ s.cfg.xlen.bits
  v : t.flagV = true ↔
    SignedOverflow s.cfg.xlen (signedOf s.cfg.xlen a - signedOf s.cfg.xlen b - bin.toNat)
  cBorrow : s.cfg.subCarrySense = .borrow → (t.flagC = true ↔ diffOf a b bin < 0)
  cNotBorrow : s.cfg.subCarrySense = .notBorrow → (t.flagC = true ↔ 0 ≤ diffOf a b bin)
  z : t.flagZ = true ↔ diffOf a b bin % 2 ^ s.cfg.xlen.bits = 0
  kept : SrKept s t 0x000F#16

/-- `t` is `s` with the sum in `rd` and its flags. -/
structure SumWritten (s t : State) (rd : RegNo) (a b : Word) (cin : Bool) : Prop where
  regs : WritesReg s t rd (BitVec.ofNat 32 (sumOf a b cin % 2 ^ s.cfg.xlen.bits))
  flags : SumFlags s t a b cin
  rest : DataOnly s t

/-- `t` is `s` with the difference in `rd` and its flags. -/
structure DiffWritten (s t : State) (rd : RegNo) (a b : Word) (bin : Bool) : Prop where
  regs : WritesReg s t rd (BitVec.ofInt 32 (diffOf a b bin % 2 ^ s.cfg.xlen.bits))
  flags : DiffFlags s t a b bin
  rest : DataOnly s t

/-- N and Z are those of `r`, C is as given, and SR is unchanged outside `mask`. -/
structure NZFlags (s t : State) (r : Word) (mask : BitVec 16) : Prop where
  n : t.flagN = r.getLsbD (s.cfg.xlen.bits - 1)
  z : t.flagZ = true ↔ r = 0x00000000#32
  kept : SrKept s t mask

/-- `t` is `s` with `r` in `rd` and N and Z set from it (00_scope.md R12). -/
structure NZWritten (s t : State) (rd : RegNo) (r : Word) : Prop where
  regs : WritesReg s t rd r
  flags : NZFlags s t r 0x0009#16
  rest : DataOnly s t

/-- `t` is `s` with `r` in `rd`, N and Z set from it, and C the bit shifted out (42_shifts.md R170). -/
structure ShiftWritten (s t : State) (rd : RegNo) (r : Word) (out : Bool) : Prop where
  regs : WritesReg s t rd r
  flags : NZFlags s t r 0x000B#16
  carry : t.flagC = out
  rest : DataOnly s t

/-- `t` is `s` with `r` in `rd`, no flag changed. -/
structure MovedTo (s t : State) (rd : RegNo) (r : Word) : Prop where
  regs : WritesReg s t rd r
  sr : t.sr = s.sr
  rest : DataOnly s t

/-- `t` is `s` with the pc at `p` and the return address in `rd` (43_flow_control.md R197). -/
structure LinkedJump (s t : State) (rd : RegNo) (p : Word) : Prop where
  regs : WritesReg s t rd s.pc
  pc : t.pc = p
  rest : TransferOnly s t

/-! ## Memory in bytes (20_memory.md R63) -/

/-- The character at an address, from its bytes. -/
def State.charAt (s : State) (a : Word) : Char16 :=
  match s.cfg.byteOrder with
  | .little => s.readByte (s.fit (a + 1)) ++ s.readByte a
  | .big => s.readByte a ++ s.readByte (s.fit (a + 1))

/-- The word at an address, from its bytes. -/
def State.wordAt (s : State) (a : Word) : Word :=
  match s.cfg.byteOrder with
  | .little => s.readByte (s.fit (a + 3)) ++ s.readByte (s.fit (a + 2)) ++
      s.readByte (s.fit (a + 1)) ++ s.readByte a
  | .big => s.readByte a ++ s.readByte (s.fit (a + 1)) ++
      s.readByte (s.fit (a + 2)) ++ s.readByte (s.fit (a + 3))

/-- The platform populates the `n` bytes at `a` (R62). -/
def State.Populated (s : State) (a : Word) (n : Nat) : Prop :=
  ∀ k < n, s.populated (s.fit (a + BitVec.ofNat 32 k)) = true

/-- The platform populates the `n` bytes at `a` with RAM (R62). -/
def State.Ram (s : State) (a : Word) (n : Nat) : Prop :=
  ∀ k < n, s.writable (s.fit (a + BitVec.ofNat 32 k)) = true

/-- A store of `n` bytes at `a` reaches into the window behind the store instruction (R80). -/
def State.InWindow (s : State) (a : Word) (n : Nat) : Prop :=
  ∃ k < n, (s.fit (s.fit (a + BitVec.ofNat 32 k) - s.pc)).toNat < s.cfg.staleWindow

/-- The four bytes of a word in the order of the configuration, lowest address first. -/
def bytesOfWord (order : ByteOrder) (w : Word) : List Byte :=
  match order with
  | .little => [w.extractLsb' 0 8, w.extractLsb' 8 8, w.extractLsb' 16 8, w.extractLsb' 24 8]
  | .big => [w.extractLsb' 24 8, w.extractLsb' 16 8, w.extractLsb' 8 8, w.extractLsb' 0 8]

/-- The two bytes of a character in the order of the configuration, lowest address first. -/
def bytesOfHalf (order : ByteOrder) (c : Char16) : List Byte :=
  match order with
  | .little => [c.extractLsb' 0 8, c.extractLsb' 8 8]
  | .big => [c.extractLsb' 8 8, c.extractLsb' 0 8]

/-- Memory after storing `bytes` at `a`: those bytes there, rising addresses modulo 2^W, and every
other byte as before. -/
def BytesStored (s t : State) (a : Word) (bytes : List Byte) : Prop :=
  (∀ (k : Nat) (h : k < bytes.length),
    t.readByte (s.fit (a + BitVec.ofNat 32 k)) = bytes[k]) ∧
  ∀ p : Word, (∀ k < bytes.length, p ≠ s.fit (a + BitVec.ofNat 32 k)) →
    t.readByte p = s.readByte p

/-- Nothing but memory and the note for the next fetch is changed, and no prefix is left. -/
structure StoreOnly (s t : State) (a : Word) (n : Nat) : Prop where
  regs : RegsKept s t
  pc : t.pc = s.pc
  sr : t.sr = s.sr
  cpfx : t.cpfx = .none
  stale : t.stale = true ↔ s.InWindow a n
  system : SystemKept s t

/-! ## The frame of a step (00_scope.md R14) -/

/-- At this step the core is neither reset nor stopped, and no interrupt is recognised. -/
structure State.Quiet (s : State) : Prop where
  rst : s.inputsNow.rst = false
  running : s.stopped = false
  interrupts : s.cpfx = .none →
    s.sample.nmiPending = false ∧ (s.inputsNow.irq = false ∨ s.flagI = true)

/-- The character at the pc can be fetched (20_memory.md R62, R67, R80). -/
structure State.Fetchable (s : State) : Prop where
  even : isOdd s.pc = false
  fresh : s.stale = false
  populated : s.Populated s.pc 2

/-- The state behind the fetch at the pc: inputs sampled, another master's turn taken, the pc
advanced (10_state.md R26). -/
def State.behindFetch (s : State) : State := { s.sample.turn with pc := s.fit (s.pc + 2) }

/-! ## The invariant -/

/-- Every general register fits in W bits (10_state.md R20). -/
def State.RegsFit (s : State) : Prop := ∀ q : RegNo, s.fit (s.readReg q) = s.readReg q

/-- What holds of every state a run reaches: memory is in canonical form and inside the address space,
r0's slot is zero, registers, pc and ILR fit in W bits, the reserved bits of SR are zero
(10_state.md R32), a stopped core and a core with a stale fetch have no prefix pending, a core with a
stale fetch is not stopped, and the sixteen-bit version is never half through a prefix (D23). -/
structure State.Inv (s : State) : Prop where
  memWf : Memory.wf s.mem = true
  memIn : ∀ c ∈ s.mem, c.1 < 2 ^ s.cfg.xlen.bits
  zero : s.regs[0] = 0x00000000#32
  regs : s.RegsFit
  pc : s.fit s.pc = s.pc
  ilr : s.fit s.ilr = s.ilr
  sr : s.sr &&& 0x7070#16 = 0x0000#16
  stopped : s.stopped = true → s.cpfx = .none
  stale : s.stale = true → s.cpfx = .none ∧ s.stopped = false
  half : ∀ c, s.cpfx = .half c → s.cfg.xlen = .w32

/-! ## What each instruction may change -/

/-- The register an instruction writes, r15 implicitly by the calls (10_state.md R24). -/
def destOf : Instr → Option RegNo
  | .addI rd _ _ | .lea rd _ _ | .subI rd _ _ => some rd
  | .addR rd _ | .adcR rd _ | .subR rd _ | .sbcR rd _ => some rd
  | .xorR rd _ | .andR rd _ | .orR rd _ => some rd
  | .zxb rd | .zxc rd | .sxb rd | .sxc rd => some rd
  | .adcI rd _ | .subrI rd _ | .sbcI rd _ | .xorI rd _ | .andI rd _ | .orI rd _ => some rd
  | .negR rd | .notR rd | .shl rd | .rol rd | .shr rd | .asr rd | .ror rd => some rd
  | .tsr rd _ => some rd
  | .jal rd _ _ => some rd
  | .lb rd _ _ | .lc rd _ _ | .lw rd _ _ => some rd
  | .callR _ _ | .callS _ | .bsr _ | .callPc _ => some 0xF#4
  | _ => none

/-- The instructions that raise a system call (60_exceptions.md R274). -/
def isSystemCall : Instr → Bool
  | .brk | .sys | .trc | .dbg | .irq | .nmi | .reset => true
  | _ => false

/-- The store instructions. -/
def isStore : Instr → Bool
  | .sb _ _ _ | .sc _ _ _ | .sw _ _ _ => true
  | _ => false

/-- The instructions that may give the pc another value than the address behind them (10_state.md
R26). -/
def isTransfer : Instr → Bool
  | .blt _ | .bge _ | .ble _ | .bgt _ | .bltu _ | .bgeu _ | .bleu _ | .bgtu _ => true
  | .beq _ | .bne _ | .bmi _ | .bpl _ | .bra _ | .bsr _ | .callPc _ => true
  | .jal _ _ _ | .jmp _ _ | .callR _ _ | .ret | .callS _ | .rti _ => true
  | i => isSystemCall i

/-- The bits of SR an instruction may change: the table of 10_state.md R41, with the backup half for
system calls and TRS to SR (R31). RTI, the system calls and TRS to SR write the reserved bits of a half
too, always with zero where those are zero (R32). -/
def srMaskOf : Instr → BitVec 16
  | .addI _ _ _ | .lea _ _ _ | .subI _ _ _ | .cmpI _ _ => 0x000F#16
  | .addR _ _ | .adcR _ _ | .subR _ _ | .sbcR _ _ | .cmpR _ _ => 0x000F#16
  | .adcI _ _ | .subrI _ _ | .sbcI _ _ | .negR _ => 0x000F#16
  | .andR _ _ | .orR _ _ | .xorR _ _ | .andI _ _ | .orI _ _ | .xorI _ _ | .notR _ => 0x0009#16
  | .zxb _ | .zxc _ | .sxb _ | .sxc _ => 0x0009#16
  | .shl _ | .shr _ | .asr _ | .rol _ | .ror _ => 0x000B#16
  | .lb _ _ _ | .lc _ _ _ | .lw _ _ _ => 0x0009#16
  | .trs _ .sr => 0xFFFF#16
  | .ei | .di | .ri => 0x0080#16
  | .rti _ => 0x00FF#16
  | i => if isSystemCall i then 0xFF80#16 else 0x0000#16

/-- The instructions that take a constant (30_encoding.md R108). -/
def takesConstant : Instr → Bool
  | .addI _ _ _ | .lea _ _ _ | .subI _ _ _ | .cmpI _ _ => true
  | .adcI _ _ | .subrI _ _ | .sbcI _ _ | .xorI _ _ | .andI _ _ | .orI _ _ => true
  | .negR _ | .notR _ => true
  | .jal _ _ _ | .jmp _ _ | .callR _ _ | .ret => true
  | .sb _ _ _ | .sc _ _ _ | .sw _ _ _ | .lb _ _ _ | .lc _ _ _ | .lw _ _ _ => true
  | _ => false

/-- CP, in its two sizes. -/
def isPrefix : Instr → Bool
  | .cp0 _ | .cp1 _ => true
  | _ => false

end Sys2Proof.Machine
end

