-- ==== Sys2Proof/Certificates/Slice0/Obligations.lean ====
section
/-! DEFINITION. The statements for the provers. Each docstring names the rule of spec/ it formalises;
where a clause rests on a decision or an inference of the spec, or on a choice of the model, it says
so. `s` is any state: the hypotheses are on the state and the operands alone. -/

open Sys2Proof Sys2Proof.Machine

/-! ## Reset and the invariant -/

/-- 10_state.md R42: what the reset state holds of what the rule fixes. That no prefix is pending, that
the core runs and that no NMI is pending are the spec's decision D22. -/
def Obligations.ResetStateAsSpecified : Prop :=
  State.reset.pc = 0xFFFFFFF8#32 ∧ State.reset.flagI = true ∧
  State.reset.sr &&& 0x7070#16 = 0x0000#16 ∧ State.reset.readReg 0x0#4 = 0x00000000#32 ∧
  State.reset.readSpr .ver = .ok 0x01000100#32 ∧ State.reset.cpfx = .none ∧
  State.reset.stopped = false ∧ State.reset.nmiPending = false

/-- The reset state meets the invariant that every step keeps. -/
def Obligations.ResetHasInvariant : Prop := State.reset.Inv

/-- Every step keeps the invariant: canonical memory inside the address space, r0's slot zero, values
that fit in W bits (R20), reserved bits of SR zero (10_state.md R32), and no prefix behind STOP or
behind a store. -/
def Obligations.StepKeepsInvariant : Prop :=
  ∀ s t : State, s.Inv → step s = .next t → t.Inv

/-- 10_state.md R43: the parameters are fixed for a run. -/
def Obligations.StepKeepsConfiguration : Prop :=
  ∀ s t : State, step s = .next t → t.cfg = s.cfg

/-- 70_reset_and_hazards.md R310, R311 (D22): what a step with `rst` high leaves, whatever the free
values are. A note of a stale fetch stands, since nothing is fetched (20_memory.md R80, D18, log entry
20). -/
def Obligations.HardwareResetStep : Prop :=
  ∀ s : State, s.inputsNow.rst = true →
    ∃ t, step s = .next t ∧ t.pc = s.fit 0xFFFFFFF8#32 ∧ t.flagI = true ∧
      t.sr &&& 0x7070#16 = 0x0000#16 ∧ t.readReg 0x0#4 = 0x00000000#32 ∧ t.cpfx = .none ∧
      t.stopped = false ∧ t.nmiPending = false ∧ t.stale = s.stale ∧ t.mem = s.mem ∧ t.cfg = s.cfg

/-! ## Encodings -/

/-- Decoding the encoding of any instruction that the configuration can encode gives the instruction
back; a row of 30_encoding.md R118 gives the instruction it is another spelling of. -/
def Obligations.DecodeOfEncode : Prop :=
  ∀ (cfg : Config) (i : Instr), WellFormed cfg i = true →
    decodeChar cfg (encode cfg i) = .ok i.core

/-- Each character has one meaning: what it decodes to encodes back to it, is no second spelling, and
is well formed. -/
def Obligations.EncodeOfDecode : Prop :=
  ∀ (cfg : Config) (w : Char16) (i : Instr), decodeChar cfg w = .ok i →
    encode cfg i = w ∧ i.core = i ∧ WellFormed cfg i = true

/-- Characters written out from the tables of 30_encoding.md (R92 to R99, R110 to R114) and the
instructions they stand for. -/
def Obligations.KnownCharactersDecode : Prop :=
  ∀ p ∈ [(0x0041#16, Instr.rti 0x1#4), (0x000D#16, .irq), (0x0021#16, .stop),
      (0x112C#16, .addI 0x1#4 0x2#4 0xC#4), (0x2123#16, .sbcR 0x1#4 0x2#4),
      (0x213E#16, .sxc 0x1#4), (0x324F#16, .xorI 0x2#4 0xF#4), (0x31C1#16, .ror 0x1#4),
      (0x31F1#16, .trs 0x1#4 .ilr), (0x4FFF#16, .cp0 0xFFF#12), (0x5F67#16, .cp1 0xF67#12),
      (0x8F3C#16, .jal 0xF#4 0x3#4 0xC#4), (0x9234#16, .callS 0x234#12),
      (0xB8FE#16, .beq 0x1FE#9), (0xAF02#16, .bsr 0x002#9), (0xC123#16, .sb 0x1#4 0x2#4 0x3#4),
      (0xD12F#16, .sw 0x1#4 0x2#4 0x7#3), (0xE321#16, .lb 0x3#4 0x2#4 0x1#4),
      (0xF12D#16, .lw 0x1#4 0x2#4 0x6#3), (0xF422#16, .lc 0x4#4 0x2#4 0x1#3)],
    decodeChar Config.default p.1 = .ok p.2

/-- 30_encoding.md R115 (D13): under the default parameters the characters that no instruction has are
exactly those of the table; a step that fetches one is refused. Without a short CALL or an RI their
characters are reserved too (R99, R220). -/
def Obligations.ReservedCharactersRefused : Prop :=
  let reserved (w : Char16) : Prop :=
    let op := w.toNat / 4096
    let f1 := w.toNat / 256 % 16
    let f2 := w.toNat / 16 % 16
    let f3 := w.toNat % 16
    (2 ≤ w.toNat ∧ w.toNat ≤ 0xA) ∨ (0x13 ≤ w.toNat ∧ w.toNat ≤ 0x1F) ∨
    (0x23 ≤ w.toNat ∧ w.toNat ≤ 0x3F) ∨ (0x50 ≤ w.toNat ∧ w.toNat ≤ 0xFFF) ∨
    op = 6 ∨ op = 7 ∨
    (op = 2 ∧ ((7 ≤ f3 ∧ f3 ≤ 0xC) ∨ f3 = 0xF ∨ (f3 = 0xE ∧ 4 ≤ f2))) ∨
    (op = 3 ∧ (f2 = 0 ∨ f2 = 7 ∨ f2 = 0xD ∨ (8 ≤ f2 ∧ f2 ≤ 0xC ∧ f3 ≠ 1) ∨
      (0xE ≤ f2 ∧ (f3 = 2 ∨ 4 ≤ f3)))) ∨
    ((op = 0xA ∨ op = 0xB) ∧ (f1 = 0xC ∨ f1 = 0xD))
  (∀ w, (∃ e, decodeChar Config.default w = .error e) ↔ reserved w) ∧
  (∀ s : State, s.cfg = Config.default → s.Quiet → s.Fetchable → (∀ c, s.cpfx ≠ .half c) →
    reserved (s.sample.turn.charAt s.pc) → ∃ e, step s = .refused (.reservedEncoding e)) ∧
  (∀ (cfg : Config) (c : BitVec 12), cfg.shortCallOp4 = none →
    decodeChar cfg (0x9#4 ++ c) = .error (.majorReserved 0x9#4)) ∧
  (∀ cfg : Config, cfg.riEncoding = none →
    decodeChar cfg 0x0012#16 = .error (.miscUnassigned 0x0012#16))

/-! ## The step -/

/-- 00_scope.md R14: when the core is neither reset nor stopped, no interrupt is recognised and no
constant character is due, and the bytes at the pc decode to an instruction, the step is that
instruction on the state behind its fetch: inputs sampled, pc advanced by 2 (10_state.md R26). -/
def Obligations.StepRunsDecodedInstruction : Prop :=
  ∀ (s : State) (i : Instr), s.Quiet → s.Fetchable → (∀ c, s.cpfx ≠ .half c) →
    decodeBytes s.cfg [s.sample.turn.readByte s.pc, s.sample.turn.readByte (s.fit (s.pc + 1))]
      = .ok (i, []) →
    step s = exec i s.behindFetch

/-- 30_encoding.md R106, 46_misc.md R250, R251: a CP with size 1 leaves its twelve bits; the next
character, whatever it is, is constant data and nothing else happens in its step; the instruction after
that has the full thirty-two bit constant. That the constant character is a step of its own is read from
00_scope.md R14 and R251 (DEDUCED, log entry 38); the refusal in the sixteen-bit version is the spec's
decision D23. -/
def Obligations.SizeOnePrefixSequence : Prop :=
  (∀ (s : State) (c : BitVec 12), s.cfg.xlen = .w32 → s.cpfx = .none →
    exec (.cp1 c) s = .next { s with cpfx := .half c }) ∧
  (∀ (s : State) (c : BitVec 12), s.cpfx = .half c → s.Quiet → s.Fetchable →
    step s = .next { s.behindFetch with cpfx := .ready (s.sample.turn.charAt s.pc ++ c) }) ∧
  (∀ (s : State) (k : Char16) (c : BitVec 12) (raw : BitVec 4), s.cfg.xlen = .w32 →
    s.cpfx = .ready (k ++ c) → s.constant raw = some (k ++ c ++ raw)) ∧
  (∀ (s : State) (c : BitVec 12), s.cfg.xlen = .w16 → s.cpfx = .none →
    exec (.cp1 c) s = .refused .only32Bit)

/-- When a fetch is refused: an odd pc (20_memory.md R67, D12), the first fetch behind a store that wrote
into its window (R80, D18), an address that the platform does not populate (R62, D17). -/
def Obligations.FetchRefusals : Prop :=
  ∀ s : State, s.Quiet →
    (isOdd s.pc = true → step s = .refused (.oddPc s.pc)) ∧
    (isOdd s.pc = false → s.stale = true → step s = .refused (.staleFetch s.pc)) ∧
    (isOdd s.pc = false → s.stale = false → ¬ s.Populated s.pc 2 →
      step s = .refused (.unpopulated s.pc))

/-- 46_misc.md R253 (D21): a stopped core is woken by the NMI, which is taken with the address behind
the STOP, or restarted by `go`; otherwise, whatever `irq` is, nothing changes but the sampled
inputs. That a level NMI stays pending when it is taken is the model's choice (DESIGN CHOICE, log entry
44). -/
def Obligations.StoppedCoreStep : Prop :=
  ∀ s : State, s.inputsNow.rst = false → s.stopped = true →
    (s.sample.nmiPending = true →
      step s = .next { s.sample.entered 14 s.pc with
        stopped := false, nmiPending := decide (s.cfg.nmiTrigger = .level) }) ∧
    (s.sample.nmiPending = false → s.inputsNow.go = true →
      step s = .next { s.sample with stopped := false }) ∧
    (s.sample.nmiPending = false → s.inputsNow.go = false → step s = .next s.sample)

/-- 93_implementation_defined.md section 5: a stopped core with no NMI and no `go` to come never
changes again, for any number of steps. That no further input comes is the model's empty environment
(log entry 17). -/
def Obligations.StoppedForeverWithoutWake : Prop :=
  ∀ (s : State) (k : Nat), s.stopped = true → s.env = [] → s.nmiPending = false →
    (s.cfg.nmiTrigger = .level → s.nmiLine = false) →
    Host.Core.run Sys2Proof.core k s = .next s

/-- 10_state.md R38, 60_exceptions.md R281, R283, R284, R285 (D15, D16). What the inputs make of the
state: under an edge NMI the pending bit is set by a rising edge and stays set, under a level NMI it
equals the level; `irq` is its level. Then, at a boundary with no prefix pending, a pending NMI is
entered at vector 14, else a high `irq` with I clear at vector 13; the return address is the current pc,
and no character is fetched. The model's choices: that the inputs come from a list, and keep their levels
when it is empty (log entry 17), and that a level NMI stays pending when it is taken (log entry 44). -/
def Obligations.HardwareInterruptsTaken : Prop :=
  ∀ s : State,
    (s.cfg.nmiTrigger = .edge → (s.sample.nmiPending = true ↔
      s.nmiPending = true ∨ (s.inputsNow.nmi = true ∧ s.nmiLine = false))) ∧
    (s.cfg.nmiTrigger = .level → s.sample.nmiPending = s.inputsNow.nmi) ∧
    s.sample.irq = s.inputsNow.irq ∧ s.sample.nmiLine = s.inputsNow.nmi ∧
    (∀ now rest, s.env = now :: rest → s.inputsNow = now ∧ s.sample.env = rest) ∧
    (s.env = [] → s.inputsNow = ⟨false, s.nmiLine, s.irq, false⟩ ∧ s.sample.env = []) ∧
    (s.inputsNow.rst = false → s.stopped = false → s.cpfx = .none →
      (s.sample.nmiPending = true →
        step s = .next { s.sample.entered 14 s.pc with
          nmiPending := decide (s.cfg.nmiTrigger = .level) }) ∧
      (s.sample.nmiPending = false → s.inputsNow.irq = true → s.flagI = false →
        step s = .next (s.sample.entered 13 s.pc)))

/-- 60_exceptions.md R282: while a prefix is pending no interrupt is recognised (neither ILR nor the
backup half is written); the request stays and is recognised at the boundary behind the prefixed
instruction; a hardware reset is not held off. That the entry there returns to the pc of the boundary
is 60_exceptions.md R284, the spec's decision D15 (log entry 15). -/
def Obligations.PrefixHoldsOffInterrupts : Prop :=
  ∀ s : State, s.cpfx ≠ .none → s.stopped = false →
    (s.inputsNow.rst = true → step s = .next s.sample.hardwareReset) ∧
    (s.inputsNow.rst = false → ∀ t, step s = .next t →
      t.ilr = s.ilr ∧ t.sr.extractLsb' 8 8 = s.sr.extractLsb' 8 8 ∧ t.flagI = s.flagI ∧
      t.nmiPending = s.sample.nmiPending ∧ t.irq = s.inputsNow.irq ∧ t.stopped = false ∧
      (t.cpfx = .none → t.inputsNow.rst = false →
        (t.sample.nmiPending = true → ∃ u, step t = .next u ∧ u.ilr = t.pc ∧
          u.pc = t.fit 0xFFFFFFF0#32) ∧
        (t.sample.nmiPending = false → t.inputsNow.irq = true → t.flagI = false →
          ∃ u, step t = .next u ∧ u.ilr = t.pc ∧ u.pc = t.fit 0xFFFFFFE8#32)))

/-! ## System calls and interrupt management -/

/-- 60_exceptions.md R275: the entry sequence for vector `v` with return address `ret`, and that it
writes nothing but ILR, SR and the pc. -/
def Obligations.SysCallEntry : Prop :=
  ∀ (s : State) (v : BitVec 4) (ret : Word),
    (s.sysCall v ret).ilr = ret ∧
    (s.sysCall v ret).sr.extractLsb' 8 8 = s.sr.extractLsb' 0 8 ∧
    (s.sysCall v ret).sr.extractLsb' 0 8 = s.sr.extractLsb' 0 8 ||| 0x80#8 ∧
    (s.sysCall v ret).pc = s.fit (0xFFFFFF80#32 + BitVec.ofNat 32 (8 * v.toNat)) ∧
    (s.cfg.xlen = .w32 → (s.sysCall v ret).pc.toNat = 0xFFFFFF80 + 8 * v.toNat) ∧
    s.sysCall v ret = { s with
      ilr := (s.sysCall v ret).ilr, sr := (s.sysCall v ret).sr, pc := (s.sysCall v ret).pc }

/-- 44_interrupt_management.md R211, R212, R216, R217: BRK, SYS, NMI and RESET, whatever I is. -/
def Obligations.SystemCallInstructions : Prop :=
  CallsVector 0x0000#16 .brk 0 ∧ CallsVector 0x0001#16 .sys 1 ∧
  CallsVector 0x000E#16 .nmi 14 ∧ CallsVector 0x000F#16 .reset 15

/-- 44_interrupt_management.md R213, R214: TRC and DBG; their characters are the spec's decision D27,
their flags its inference from R210. -/
def Obligations.TraceAndDebugCalls : Prop :=
  CallsVector 0x000B#16 .trc 11 ∧ CallsVector 0x000C#16 .dbg 12

/-- 44_interrupt_management.md R215: IRQ is ignored when I is set; else it is the entry of vector
13. -/
def Obligations.IrqInstruction : Prop :=
  Encodes 0x000D#16 .irq ∧ NotPrefixable .irq ∧
  ∀ s : State, s.cpfx = .none →
    exec .irq s = .next (if s.flagI = true then s else s.entered 13 s.pc)

/-- 44_interrupt_management.md R218, R219: EI clears I, DI sets it, and nothing else changes; behind an
EI a high `irq` is recognised before the next instruction; behind a DI the IRQ instruction does nothing
and an NMI is still taken. That the entry behind EI (60_exceptions.md R281) returns to the pc of the
boundary is R284, the spec's decision D15 (log entry 15). -/
def Obligations.InterruptMaskInstructions : Prop :=
  Encodes 0x0010#16 .ei ∧ NotPrefixable .ei ∧ Encodes 0x0011#16 .di ∧ NotPrefixable .di ∧
  (∀ s : State, s.cpfx = .none →
    exec .ei s = .next { s with sr := s.sr &&& 0xFF7F#16 } ∧
    exec .di s = .next { s with sr := s.sr ||| 0x0080#16 }) ∧
  (∀ s t : State, exec .ei s = .next t → t.stopped = false → t.inputsNow.rst = false →
    t.sample.nmiPending = false → t.inputsNow.irq = true →
    step t = .next (t.sample.entered 13 t.pc)) ∧
  (∀ s t : State, exec .di s = .next t → exec .irq t = .next t ∧
    exec .nmi t = .next (t.entered 14 t.pc))

/-- 44_interrupt_management.md R220: RI copies the backup of I to I and changes nothing else. Its
character is the spec's decision D6. -/
def Obligations.RestoreInterruptMask : Prop :=
  encode Config.default .ri = 0x0012#16 ∧ decodeChar Config.default 0x0012#16 = .ok .ri ∧
  NotPrefixable .ri ∧
  ∀ s : State, s.cpfx = .none →
    exec .ri s = .next { s with
      sr := if s.sr.getLsbD 15 = true then s.sr ||| 0x0080#16 else s.sr &&& 0xFF7F#16 }

/-- 44_interrupt_management.md R221: RTI goes to ILR plus its constant, in bytes (D25), and copies the
backup half to the working half; ILR, the backup half and everything else stay. -/
def Obligations.ReturnFromInterrupt : Prop :=
  ∀ n : BitVec 4, Encodes (0x004#12 ++ n) (.rti n) ∧ NotPrefixable (.rti n) ∧
    ∀ s : State, s.cpfx = .none →
      exec (.rti n) s = .next { s with
        pc := s.fit (s.ilr + BitVec.ofInt 32
          (if n.toNat ≤ 11 then (n.toNat : Int) else (n.toNat : Int) - 16))
        sr := s.sr.extractLsb' 8 8 ++ s.sr.extractLsb' 8 8 }

/-- 60_exceptions.md R277, R290 (inferred there): a system-call instruction and an RTI with
displacement 0 behind it resume at the address behind the instruction with the old working flags;
an RTI behind a hardware IRQ resumes at the interrupted instruction. Registers and memory are
untouched. -/
def Obligations.HandlerReturnResumes : Prop :=
  (∀ (s : State) (i : Instr), s.cpfx = .none → s.fit s.pc = s.pc → isSystemCall i = true →
    (i = .irq → s.flagI = false) →
    ∃ t u, exec i s = .next t ∧ exec (.rti 0x0#4) t = .next u ∧ u.pc = s.pc ∧
      u.sr.extractLsb' 0 8 = s.sr.extractLsb' 0 8 ∧ u.regs = s.regs ∧ u.mem = s.mem) ∧
  (∀ s : State, s.fit s.pc = s.pc → s.inputsNow.rst = false → s.stopped = false →
    s.cpfx = .none → s.sample.nmiPending = false → s.inputsNow.irq = true → s.flagI = false →
    ∃ t u, step s = .next t ∧ exec (.rti 0x0#4) t = .next u ∧ u.pc = s.pc ∧
      u.sr.extractLsb' 0 8 = s.sr.extractLsb' 0 8 ∧ u.regs = s.regs ∧ u.mem = s.mem)

/-! ## Constants -/

/-- 30_encoding.md R103: the sixteen four-bit constants. -/
def Obligations.FourBitConstants : Prop :=
  (List.range 16).map (fun k => c4dec (BitVec.ofNat 4 k)) =
    [0, 1, 2, 3, 4, 5, 6, 7, 8, 9, 10, 11, -4, -3, -2, -1]

/-- 30_encoding.md R104, R105: the constant without a prefix, and behind a CP with size 0, whose twelve
bits and the raw nibble are one sixteen-bit number. -/
def Obligations.ConstantsAndShortPrefix : Prop :=
  ∀ (s : State) (raw : BitVec 4), s.cpfx = .none →
    s.constant raw = some (s.fit (BitVec.ofInt 32 (c4dec raw))) ∧
    ∀ c : BitVec 12, ∃ t, exec (.cp0 c) s = .next t ∧
      t.constant raw = some (s.fit ((c ++ raw : BitVec 16).signExtend 32))

/-- 46_misc.md R250: CP in both sizes changes nothing but the prefix state; a CP behind a prefix is
refused, and so is size 1 in the sixteen-bit version. -/
def Obligations.PrefixInstruction : Prop :=
  ∀ (s : State) (c : BitVec 12),
    Encodes (0b0100#4 ++ c) (.cp0 c) ∧ Encodes (0b0101#4 ++ c) (.cp1 c) ∧
    (s.cpfx = .none → exec (.cp0 c) s = .next { s with cpfx := .ready (c.signExtend 28) }) ∧
    (s.cpfx = .none → s.cfg.xlen = .w32 →
      exec (.cp1 c) s = .next { s with cpfx := .half c }) ∧
    (s.cpfx = .none → s.cfg.xlen = .w16 → exec (.cp1 c) s = .refused .only32Bit) ∧
    (∀ u, s.cpfx = .ready u →
      exec (.cp0 c) s = .refused .prefixAfterPrefix ∧
      exec (.cp1 c) s = .refused .prefixAfterPrefix)

/-- 30_encoding.md R108 and 46_misc.md R252 (D14), for every instruction: behind a prefix one without a
constant field is refused, a CP is refused, and one that takes a constant leaves no prefix. -/
def Obligations.PrefixBeforeEveryInstruction : Prop :=
  ∀ (i : Instr) (s : State) (u : BitVec 28), s.cpfx = .ready u →
    (takesConstant i = false → isPrefix i = false →
      exec i s = .refused .prefixedNonConstant) ∧
    (isPrefix i = true → exec i s = .refused .prefixAfterPrefix) ∧
    (takesConstant i = true → ∀ t, exec i s = .next t → t.cpfx = .none)

/-! ## Arithmetic -/

/-- 40_arithmetic.md R131, R137: ADD Rd,Rs and ADC Rd,Rs. -/
def Obligations.AddRegisters : Prop :=
  ∀ (s : State) (rd rs : RegNo),
    Encodes (0x2#4 ++ rd ++ rs ++ 0x0#4) (.addR rd rs) ∧ NotPrefixable (.addR rd rs) ∧
    Encodes (0x2#4 ++ rd ++ rs ++ 0x1#4) (.adcR rd rs) ∧ NotPrefixable (.adcR rd rs) ∧
    (s.cpfx = .none →
      (∃ t, exec (.addR rd rs) s = .next t ∧
        SumWritten s t rd (s.readReg rd) (s.readReg rs) false) ∧
      (∃ t, exec (.adcR rd rs) s = .next t ∧
        SumWritten s t rd (s.readReg rd) (s.readReg rs) s.flagC))

/-- 40_arithmetic.md R132, R134, R138: ADD Rd,Rs,#n, LEA Rd,d[Rs] and ADC Rd,#n, with or without a
prefix. -/
def Obligations.AddConstants : Prop :=
  ∀ (s : State) (rd rs : RegNo) (n : BitVec 4),
    Encodes (0x1#4 ++ rd ++ rs ++ n) (.addI rd rs n) ∧
    Encodes (0x1#4 ++ rd ++ rs ++ n) (.lea rd rs n) ∧
    Encodes (0x3#4 ++ rd ++ 0x1#4 ++ n) (.adcI rd n) ∧
    ∀ imm, s.constant n = some imm →
      (∃ t, exec (.addI rd rs n) s = .next t ∧ SumWritten s t rd (s.readReg rs) imm false) ∧
      (∃ t, exec (.lea rd rs n) s = .next t ∧ SumWritten s t rd (s.readReg rs) imm false) ∧
      (∃ t, exec (.adcI rd n) s = .next t ∧ SumWritten s t rd (s.readReg rd) imm s.flagC)

/-- 40_arithmetic.md R139, R144: SUB Rd,Rs and CMP Rd,Rs; CMP writes no register. -/
def Obligations.SubtractRegisters : Prop :=
  ∀ (s : State) (rd rs : RegNo),
    Encodes (0x2#4 ++ rd ++ rs ++ 0x2#4) (.subR rd rs) ∧ NotPrefixable (.subR rd rs) ∧
    Encodes (0x2#4 ++ rd ++ rs ++ 0xD#4) (.cmpR rd rs) ∧ NotPrefixable (.cmpR rd rs) ∧
    (s.cpfx = .none →
      (∃ t, exec (.subR rd rs) s = .next t ∧
        DiffWritten s t rd (s.readReg rd) (s.readReg rs) false) ∧
      (∃ t, exec (.cmpR rd rs) s = .next t ∧ RegsKept s t ∧
        DiffFlags s t (s.readReg rd) (s.readReg rs) false ∧ DataOnly s t))

/-- 40_arithmetic.md R140, R141 (D7): SBC subtracts, with the borrow-in that SUB_CARRY_SENSE makes of
C. -/
def Obligations.SubtractWithBorrow : Prop :=
  ∀ (s : State) (rd rs : RegNo) (n : BitVec 4),
    Encodes (0x2#4 ++ rd ++ rs ++ 0x3#4) (.sbcR rd rs) ∧ NotPrefixable (.sbcR rd rs) ∧
    Encodes (0x3#4 ++ rd ++ 0x3#4 ++ n) (.sbcI rd n) ∧
    ∀ bin : Bool,
      (s.cfg.subCarrySense = .borrow → bin = s.flagC) →
      (s.cfg.subCarrySense = .notBorrow → bin = !s.flagC) →
      (s.cpfx = .none → ∃ t, exec (.sbcR rd rs) s = .next t ∧
        DiffWritten s t rd (s.readReg rd) (s.readReg rs) bin) ∧
      (∀ imm, s.constant n = some imm → ∃ t, exec (.sbcI rd n) s = .next t ∧
        DiffWritten s t rd (s.readReg rd) imm bin)

/-- 40_arithmetic.md R142, R143: SUBR Rd,#n, and NEG, which is SUBR with the nibble 0 and so, with no
prefix in front, subtracts from zero. -/
def Obligations.ReverseSubtract : Prop :=
  ∀ (s : State) (rd : RegNo) (n : BitVec 4),
    Encodes (0x3#4 ++ rd ++ 0x2#4 ++ n) (.subrI rd n) ∧
    Encodes (0x3#4 ++ rd ++ 0x2#4 ++ 0x0#4) (.negR rd) ∧
    (∀ imm, s.constant n = some imm → ∃ t, exec (.subrI rd n) s = .next t ∧
      DiffWritten s t rd imm (s.readReg rd) false) ∧
    (∀ imm, s.constant 0x0#4 = some imm → ∃ t, exec (.negR rd) s = .next t ∧
      DiffWritten s t rd imm (s.readReg rd) false) ∧
    (s.cpfx = .none → ∃ t, exec (.negR rd) s = .next t ∧
      DiffWritten s t rd 0x00000000#32 (s.readReg rd) false)

/-- 40_arithmetic.md R133, R135, R136 (D28, inferred from R132): SUB Rd,Rs,#k and CMP Rs,#k are the
addition of -k: the result and N, Z are those of Rs - k, V too when -k is representable, and C is set
exactly when k is not 0 and Rs is not below k. -/
def Obligations.ImmediateSubtractAndCompare : Prop :=
  ∀ (s : State) (rd rs : RegNo) (n : BitVec 4),
    Encodes (0x1#4 ++ rd ++ rs ++ n) (.subI rd rs n) ∧
    Encodes (0x1#4 ++ 0x0#4 ++ rs ++ n) (.cmpI rs n) ∧
    ∀ k : Word, s.RegsFit → s.fit k = k → s.constant n = some (s.fit (-k)) →
      (∃ t, exec (.subI rd rs n) s = .next t ∧
        WritesReg s t rd (s.fit (s.readReg rs - k)) ∧ DataOnly s t ∧ SrKept s t 0x000F#16 ∧
        (t.flagC = true ↔ k ≠ 0x00000000#32 ∧ k.toNat ≤ (s.readReg rs).toNat) ∧
        (t.flagZ = true ↔ s.readReg rs = k) ∧
        t.flagN = (s.fit (s.readReg rs - k)).getLsbD (s.cfg.xlen.bits - 1) ∧
        (k.toNat ≠ 2 ^ (s.cfg.xlen.bits - 1) → (t.flagV = true ↔
          SignedOverflow s.cfg.xlen
            (signedOf s.cfg.xlen (s.readReg rs) - signedOf s.cfg.xlen k)))) ∧
      (∃ t u, exec (.cmpI rs n) s = .next t ∧ exec (.subI rd rs n) s = .next u ∧
        RegsKept s t ∧ DataOnly s t ∧ t.sr = u.sr)

/-- 43_flow_control.md R181, last column (inferred there from R144): behind CMP Rd,Rs each branch is
taken exactly when the relation it is named after holds, for both values of SUB_CARRY_SENSE. -/
def Obligations.CompareThenBranch : Prop :=
  ∀ (s t : State) (rd rs : RegNo) (d : BitVec 9), s.RegsFit → exec (.cmpR rd rs) s = .next t →
    let a := s.readReg rd
    let b := s.readReg rs
    let x := s.cfg.xlen
    exec (.blt d) t = .next { t with
      pc := if signedOf x a < signedOf x b then t.target d else t.pc } ∧
    exec (.bge d) t = .next { t with
      pc := if signedOf x b ≤ signedOf x a then t.target d else t.pc } ∧
    exec (.ble d) t = .next { t with
      pc := if signedOf x a ≤ signedOf x b then t.target d else t.pc } ∧
    exec (.bgt d) t = .next { t with
      pc := if signedOf x b < signedOf x a then t.target d else t.pc } ∧
    exec (.bltu d) t = .next { t with
      pc := if a.toNat < b.toNat then t.target d else t.pc } ∧
    exec (.bgeu d) t = .next { t with
      pc := if b.toNat ≤ a.toNat then t.target d else t.pc } ∧
    exec (.bleu d) t = .next { t with
      pc := if a.toNat ≤ b.toNat then t.target d else t.pc } ∧
    exec (.bgtu d) t = .next { t with
      pc := if b.toNat < a.toNat then t.target d else t.pc } ∧
    exec (.beq d) t = .next { t with pc := if a = b then t.target d else t.pc } ∧
    exec (.bne d) t = .next { t with pc := if a ≠ b then t.target d else t.pc } ∧
    exec (.bmi d) t = .next { t with
      pc := if 2 ^ (x.bits - 1) ≤ diffOf a b false % 2 ^ x.bits then t.target d else t.pc } ∧
    exec (.bpl d) t = .next { t with
      pc := if diffOf a b false % 2 ^ x.bits < 2 ^ (x.bits - 1) then t.target d else t.pc }

/-- 40_arithmetic.md R130, R137, R140: ADD then ADC is the addition, and SUB then SBC the subtraction,
of numbers of 2W bits held in two registers, with the carry or borrow of the whole in C. That SBC
subtracts is the spec's decision D7. -/
def Obligations.DoubleWidthArithmetic : Prop :=
  ∀ (s : State) (lo hi lo' hi' : RegNo), s.cpfx = .none → s.RegsFit →
    lo ≠ 0x0#4 → hi ≠ 0x0#4 → lo ≠ hi → lo ≠ hi' →
    let m : Int := 2 ^ s.cfg.xlen.bits
    let a : Int := (s.readReg hi).toNat * m + (s.readReg lo).toNat
    let b : Int := (s.readReg hi').toNat * m + (s.readReg lo').toNat
    (∃ t u, exec (.addR lo lo') s = .next t ∧ exec (.adcR hi hi') t = .next u ∧
      (u.readReg hi).toNat * m + (u.readReg lo).toNat = (a + b) % (m * m) ∧
      (u.flagC = true ↔ m * m ≤ a + b)) ∧
    (∃ t u, exec (.subR lo lo') s = .next t ∧ exec (.sbcR hi hi') t = .next u ∧
      (u.readReg hi).toNat * m + (u.readReg lo).toNat = (a - b) % (m * m) ∧
      (s.cfg.subCarrySense = .borrow → (u.flagC = true ↔ a < b)) ∧
      (s.cfg.subCarrySense = .notBorrow → (u.flagC = true ↔ b ≤ a)))

/-! ## Logic, extension, shifts -/

/-- 41_logical.md R151, R153, R155: AND, OR and XOR of registers. -/
def Obligations.LogicalRegisters : Prop :=
  ∀ (s : State) (rd rs : RegNo),
    Encodes (0x2#4 ++ rd ++ rs ++ 0x5#4) (.andR rd rs) ∧ NotPrefixable (.andR rd rs) ∧
    Encodes (0x2#4 ++ rd ++ rs ++ 0x6#4) (.orR rd rs) ∧ NotPrefixable (.orR rd rs) ∧
    Encodes (0x2#4 ++ rd ++ rs ++ 0x4#4) (.xorR rd rs) ∧ NotPrefixable (.xorR rd rs) ∧
    (s.RegsFit → s.cpfx = .none →
      (∃ t, exec (.andR rd rs) s = .next t ∧
        NZWritten s t rd (s.readReg rd &&& s.readReg rs)) ∧
      (∃ t, exec (.orR rd rs) s = .next t ∧
        NZWritten s t rd (s.readReg rd ||| s.readReg rs)) ∧
      (∃ t, exec (.xorR rd rs) s = .next t ∧
        NZWritten s t rd (s.readReg rd ^^^ s.readReg rs)))

/-- 41_logical.md R152, R154, R156, R157: AND, OR and XOR with a constant, and NOT, which is XOR with
the nibble F and so, with no prefix in front, the complement. -/
def Obligations.LogicalConstants : Prop :=
  ∀ (s : State) (rd : RegNo) (n : BitVec 4),
    Encodes (0x3#4 ++ rd ++ 0x5#4 ++ n) (.andI rd n) ∧
    Encodes (0x3#4 ++ rd ++ 0x6#4 ++ n) (.orI rd n) ∧
    Encodes (0x3#4 ++ rd ++ 0x4#4 ++ n) (.xorI rd n) ∧
    Encodes (0x3#4 ++ rd ++ 0x4#4 ++ 0xF#4) (.notR rd) ∧
    (s.RegsFit →
      (∀ imm, s.constant n = some imm →
        (∃ t, exec (.andI rd n) s = .next t ∧ NZWritten s t rd (s.readReg rd &&& imm)) ∧
        (∃ t, exec (.orI rd n) s = .next t ∧ NZWritten s t rd (s.readReg rd ||| imm)) ∧
        (∃ t, exec (.xorI rd n) s = .next t ∧ NZWritten s t rd (s.readReg rd ^^^ imm))) ∧
      (∀ imm, s.constant 0xF#4 = some imm →
        ∃ t, exec (.notR rd) s = .next t ∧ NZWritten s t rd (s.readReg rd ^^^ imm)) ∧
      (s.cpfx = .none →
        ∃ t, exec (.notR rd) s = .next t ∧ NZWritten s t rd (s.fit (~~~ s.readReg rd))))

/-- 41_logical.md R158, R159, R160, R161: the zero and sign extensions of a byte and a character. -/
def Obligations.Extensions : Prop :=
  ∀ (s : State) (rd : RegNo),
    Encodes (0x2#4 ++ rd ++ 0x0#4 ++ 0xE#4) (.zxb rd) ∧ NotPrefixable (.zxb rd) ∧
    Encodes (0x2#4 ++ rd ++ 0x1#4 ++ 0xE#4) (.zxc rd) ∧ NotPrefixable (.zxc rd) ∧
    Encodes (0x2#4 ++ rd ++ 0x2#4 ++ 0xE#4) (.sxb rd) ∧ NotPrefixable (.sxb rd) ∧
    Encodes (0x2#4 ++ rd ++ 0x3#4 ++ 0xE#4) (.sxc rd) ∧ NotPrefixable (.sxc rd) ∧
    (s.cpfx = .none →
      let a := s.readReg rd
      let m : Int := 2 ^ s.cfg.xlen.bits
      (∃ t, exec (.zxb rd) s = .next t ∧ NZWritten s t rd (BitVec.ofNat 32 (a.toNat % 256))) ∧
      (∃ t, exec (.zxc rd) s = .next t ∧
        NZWritten s t rd (BitVec.ofNat 32 (a.toNat % 65536))) ∧
      (∃ t, exec (.sxb rd) s = .next t ∧
        NZWritten s t rd (BitVec.ofInt 32 ((a.extractLsb' 0 8).toInt % m))) ∧
      (∃ t, exec (.sxc rd) s = .next t ∧
        NZWritten s t rd (BitVec.ofInt 32 ((a.extractLsb' 0 16).toInt % m))))

/-- 42_shifts.md R171, R172, R173: SHL doubles, SHR halves the unsigned and ASR the signed number,
rounding down; C is the bit that leaves. -/
def Obligations.Shifts : Prop :=
  ∀ (s : State) (rd : RegNo),
    Encodes (0x3#4 ++ rd ++ 0x8#4 ++ 0x1#4) (.shl rd) ∧ NotPrefixable (.shl rd) ∧
    Encodes (0x3#4 ++ rd ++ 0xA#4 ++ 0x1#4) (.shr rd) ∧ NotPrefixable (.shr rd) ∧
    Encodes (0x3#4 ++ rd ++ 0xB#4 ++ 0x1#4) (.asr rd) ∧ NotPrefixable (.asr rd) ∧
    (s.RegsFit → s.cpfx = .none →
      let a := s.readReg rd
      let x := s.cfg.xlen
      (∃ t, exec (.shl rd) s = .next t ∧
        ShiftWritten s t rd (BitVec.ofNat 32 (2 * a.toNat % 2 ^ x.bits))
          (a.getLsbD (x.bits - 1))) ∧
      (∃ t, exec (.shr rd) s = .next t ∧
        ShiftWritten s t rd (BitVec.ofNat 32 (a.toNat / 2)) (a.getLsbD 0)) ∧
      (∃ t, exec (.asr rd) s = .next t ∧
        ShiftWritten s t rd (BitVec.ofInt 32 (signedOf x a / 2 % 2 ^ x.bits)) (a.getLsbD 0)))

/-- 42_shifts.md R174, R175 (D8): ROL and ROR; the entering bit is the one that leaves, or the old C
under ROTATE_THROUGH_CARRY. -/
def Obligations.Rotates : Prop :=
  ∀ (s : State) (rd : RegNo),
    Encodes (0x3#4 ++ rd ++ 0x9#4 ++ 0x1#4) (.rol rd) ∧ NotPrefixable (.rol rd) ∧
    Encodes (0x3#4 ++ rd ++ 0xC#4 ++ 0x1#4) (.ror rd) ∧ NotPrefixable (.ror rd) ∧
    (s.RegsFit → s.cpfx = .none →
      let a := s.readReg rd
      let x := s.cfg.xlen
      let top := a.getLsbD (x.bits - 1)
      let low := a.getLsbD 0
      let into (out : Bool) := if s.cfg.rotateThroughCarry then s.flagC else out
      (∃ t, exec (.rol rd) s = .next t ∧
        ShiftWritten s t rd
          (BitVec.ofNat 32 (2 * a.toNat % 2 ^ x.bits + (into top).toNat)) top) ∧
      (∃ t, exec (.ror rd) s = .next t ∧
        ShiftWritten s t rd
          (BitVec.ofNat 32 (a.toNat / 2 + (into low).toNat * 2 ^ (x.bits - 1))) low))

/-! ## Flow control -/

/-- 43_flow_control.md R182, R183, R184, R185: the signed branches. -/
def Obligations.SignedBranches : Prop :=
  Branches 0x0#4 .blt (fun s => s.flagN ^^ s.flagV) ∧
  Branches 0x1#4 .bge (fun s => !(s.flagN ^^ s.flagV)) ∧
  Branches 0x2#4 .ble (fun s => (s.flagN ^^ s.flagV) || s.flagZ) ∧
  Branches 0x3#4 .bgt (fun s => !((s.flagN ^^ s.flagV) || s.flagZ))

/-- 43_flow_control.md R186, R187, R188, R189: the unsigned branches, with those rules' tests under
SUB_CARRY_SENSE = borrow; the tests under not_borrow are those of R181, the spec's decision D34 (log entry
39). -/
def Obligations.UnsignedBranches : Prop :=
  Branches 0x4#4 .bltu (fun s => match s.cfg.subCarrySense with
    | .borrow => s.flagC
    | .notBorrow => !s.flagC && !s.flagZ) ∧
  Branches 0x5#4 .bgeu (fun s => match s.cfg.subCarrySense with
    | .borrow => !s.flagC
    | .notBorrow => s.flagC || s.flagZ) ∧
  Branches 0x6#4 .bleu (fun s => match s.cfg.subCarrySense with
    | .borrow => s.flagC || s.flagZ
    | .notBorrow => !s.flagC || s.flagZ) ∧
  Branches 0x7#4 .bgtu (fun s => match s.cfg.subCarrySense with
    | .borrow => !(s.flagC || s.flagZ)
    | .notBorrow => s.flagC && !s.flagZ)

/-- 43_flow_control.md R190, R191, R192, R193, R195: the branches on one flag, and BRA. -/
def Obligations.FlagBranches : Prop :=
  Branches 0x8#4 .beq State.flagZ ∧ Branches 0x9#4 .bne (fun s => !s.flagZ) ∧
  Branches 0xA#4 .bmi State.flagN ∧ Branches 0xB#4 .bpl (fun s => !s.flagN) ∧
  Branches 0xE#4 .bra (fun _ => true)

/-- 43_flow_control.md R194, R201: BSR and its other spelling CALL d9[pc]. -/
def Obligations.RelativeCalls : Prop :=
  ∀ (s : State) (d : BitVec 9),
    Encodes (0b101#3 ++ d.extractLsb' 8 1 ++ 0xF#4 ++ d.extractLsb' 0 8) (.bsr d) ∧
    Encodes (0b101#3 ++ d.extractLsb' 8 1 ++ 0xF#4 ++ d.extractLsb' 0 8) (.callPc d) ∧
    NotPrefixable (.bsr d) ∧ NotPrefixable (.callPc d) ∧
    (s.cpfx = .none → s.fit s.pc = s.pc →
      (∃ t, exec (.bsr d) s = .next t ∧ LinkedJump s t 0xF#4 (s.target d)) ∧
      (∃ t, exec (.callPc d) s = .next t ∧ LinkedJump s t 0xF#4 (s.target d)))

/-- 43_flow_control.md R197, R198, R200, R202: JAL and its forms JMP (no link), CALL d[Rs] (link in
r15) and RET (to r15), with or without a prefix; the target is taken from the old Rs. -/
def Obligations.JumpAndLink : Prop :=
  ∀ (s : State) (rd rs : RegNo) (n : BitVec 4),
    Encodes (0x8#4 ++ rd ++ rs ++ n) (.jal rd rs n) ∧
    Encodes (0x8#4 ++ 0x0#4 ++ rs ++ n) (.jmp rs n) ∧
    Encodes (0x8#4 ++ 0xF#4 ++ rs ++ n) (.callR rs n) ∧ Encodes 0x80F0#16 .ret ∧
    (s.fit s.pc = s.pc →
      (∀ imm, s.constant n = some imm →
        (∃ t, exec (.jal rd rs n) s = .next t ∧ LinkedJump s t rd (s.fit (s.readReg rs + imm))) ∧
        (∃ t, exec (.jmp rs n) s = .next t ∧ RegsKept s t ∧
          t.pc = s.fit (s.readReg rs + imm) ∧ TransferOnly s t) ∧
        (∃ t, exec (.callR rs n) s = .next t ∧
          LinkedJump s t 0xF#4 (s.fit (s.readReg rs + imm)))) ∧
      (∀ imm, s.constant 0x0#4 = some imm →
        ∃ t, exec .ret s = .next t ∧ RegsKept s t ∧
          t.pc = s.fit (s.readReg 0xF#4 + imm) ∧ TransferOnly s t) ∧
      (s.cpfx = .none → s.RegsFit →
        ∃ t, exec .ret s = .next t ∧ RegsKept s t ∧ t.pc = s.readReg 0xF#4 ∧ TransferOnly s t))

/-- 43_flow_control.md R199 (D5): the short CALL keeps the bank, links in r15, and is refused in the
last character of a bank; in the sixteen-bit version there is no bank (D23). -/
def Obligations.ShortCall : Prop :=
  (∀ (cfg : Config) (op : BitVec 4) (a : BitVec 12), cfg.shortCallOp4 = some op →
    op = 0x6#4 ∨ op = 0x7#4 ∨ op = 0x9#4 →
    encode cfg (.callS a) = op ++ a ∧ decodeChar cfg (op ++ a) = .ok (.callS a)) ∧
  ∀ (s : State) (a : BitVec 12), NotPrefixable (.callS a) ∧
    (s.cpfx = .none → s.fit s.pc = s.pc →
      (s.cfg.xlen = .w32 → s.pc.extractLsb' 0 16 ≠ 0x0000#16 →
        ∃ t, exec (.callS a) s = .next t ∧
          LinkedJump s t 0xF#4 (s.pc.extractLsb' 16 16 ++ a ++ 0x0#4)) ∧
      (s.cfg.xlen = .w32 → s.pc.extractLsb' 0 16 = 0x0000#16 →
        exec (.callS a) s = .refused (.bankEdgeCall s.pc)) ∧
      (s.cfg.xlen = .w16 →
        ∃ t, exec (.callS a) s = .next t ∧
          LinkedJump s t 0xF#4 ((a ++ 0x0#4 : BitVec 16).setWidth 32)))

/-! ## Memory -/

/-- 45_memory_ops.md R231, R232, R233: LB, LC and LW with no other bus master, at populated addresses;
LC and LW at an odd address are refused, and LW in the sixteen-bit version. -/
def Obligations.Loads : Prop :=
  ∀ (s : State) (rd rs : RegNo) (n : BitVec 4) (d : BitVec 3),
    Encodes (0xE#4 ++ rd ++ rs ++ n) (.lb rd rs n) ∧
    Encodes (0xF#4 ++ rd ++ rs ++ d ++ 0b0#1) (.lc rd rs d) ∧
    Encodes (0xF#4 ++ rd ++ rs ++ d ++ 0b1#1) (.lw rd rs d) ∧
    (s.cfg.externalWriters = false →
      (∀ imm, s.constant n = some imm → s.Populated (s.ea rs imm) 1 →
        ∃ t, exec (.lb rd rs n) s = .next t ∧
          NZWritten s t rd (BitVec.ofInt 32
            ((s.readByte (s.ea rs imm)).toInt % 2 ^ s.cfg.xlen.bits))) ∧
      (∀ imm, s.constant (d ++ 0b0#1) = some imm →
        (isOdd (s.ea rs imm) = true →
          exec (.lc rd rs d) s = .refused (.misalignedLoad (s.ea rs imm)) ∧
          (s.cfg.xlen = .w32 →
            exec (.lw rd rs d) s = .refused (.misalignedLoad (s.ea rs imm)))) ∧
        (s.cfg.xlen = .w16 → exec (.lw rd rs d) s = .refused .only32Bit) ∧
        (isOdd (s.ea rs imm) = false → s.Populated (s.ea rs imm) 2 →
          ∃ t, exec (.lc rd rs d) s = .next t ∧
            NZWritten s t rd (BitVec.ofInt 32
              ((s.charAt (s.ea rs imm)).toInt % 2 ^ s.cfg.xlen.bits))) ∧
        (s.cfg.xlen = .w32 → isOdd (s.ea rs imm) = false → s.Populated (s.ea rs imm) 4 →
          ∃ t, exec (.lw rd rs d) s = .next t ∧ NZWritten s t rd (s.wordAt (s.ea rs imm)))))

/-- 45_memory_ops.md R234: SB with no other bus master, at an address populated with RAM. That the byte
is bits 7..0 of Rd is the spec's inference from R235. The note for the next fetch is 20_memory.md R80,
the spec's decision D18 (log entry 20). -/
def Obligations.StoreByte : Prop :=
  ∀ (s : State) (rd rs : RegNo) (n : BitVec 4),
    Encodes (0xC#4 ++ rd ++ rs ++ n) (.sb rd rs n) ∧
    ∀ imm, s.constant n = some imm → s.cfg.externalWriters = false → Memory.wf s.mem = true →
      s.Populated (s.ea rs imm) 1 → s.Ram (s.ea rs imm) 1 →
      ∃ t, exec (.sb rd rs n) s = .next t ∧ StoreOnly s t (s.ea rs imm) 1 ∧
        BytesStored s t (s.ea rs imm) [(s.readReg rd).extractLsb' 0 8]

/-- 45_memory_ops.md R235, R236: SC and SW with no other bus master, at addresses populated with RAM,
in either byte order; at an odd address they are refused, and SW in the sixteen-bit version. The note for
the next fetch is 20_memory.md R80, the spec's decision D18 (log entry 20). -/
def Obligations.StoreCharacterAndWord : Prop :=
  ∀ (s : State) (rd rs : RegNo) (d : BitVec 3),
    Encodes (0xD#4 ++ rd ++ rs ++ d ++ 0b0#1) (.sc rd rs d) ∧
    Encodes (0xD#4 ++ rd ++ rs ++ d ++ 0b1#1) (.sw rd rs d) ∧
    ∀ imm, s.constant (d ++ 0b0#1) = some imm → s.cfg.externalWriters = false →
      Memory.wf s.mem = true →
      (isOdd (s.ea rs imm) = true →
        exec (.sc rd rs d) s = .refused (.misalignedStore (s.ea rs imm)) ∧
        (s.cfg.xlen = .w32 →
          exec (.sw rd rs d) s = .refused (.misalignedStore (s.ea rs imm)))) ∧
      (s.cfg.xlen = .w16 → exec (.sw rd rs d) s = .refused .only32Bit) ∧
      (isOdd (s.ea rs imm) = false → s.Populated (s.ea rs imm) 2 → s.Ram (s.ea rs imm) 2 →
        ∃ t, exec (.sc rd rs d) s = .next t ∧ StoreOnly s t (s.ea rs imm) 2 ∧
          BytesStored s t (s.ea rs imm)
            (bytesOfHalf s.cfg.byteOrder ((s.readReg rd).extractLsb' 0 16))) ∧
      (s.cfg.xlen = .w32 → isOdd (s.ea rs imm) = false → s.Populated (s.ea rs imm) 4 →
        s.Ram (s.ea rs imm) 4 →
        ∃ t, exec (.sw rd rs d) s = .next t ∧ StoreOnly s t (s.ea rs imm) 4 ∧
          BytesStored s t (s.ea rs imm) (bytesOfWord s.cfg.byteOrder (s.readReg rd)))

/-- 20_memory.md R62 (D17): an aligned access to an address that the platform does not populate is
refused, and so is a store to ROM. -/
def Obligations.PlatformRefusals : Prop :=
  ∀ (s : State) (rd rs : RegNo) (n : BitVec 4) (d : BitVec 3),
    (∀ imm, s.constant n = some imm →
      (¬ s.Populated (s.ea rs imm) 1 →
        exec (.lb rd rs n) s = .refused (.unpopulated (s.ea rs imm)) ∧
        exec (.sb rd rs n) s = .refused (.unpopulated (s.ea rs imm))) ∧
      (s.Populated (s.ea rs imm) 1 → ¬ s.Ram (s.ea rs imm) 1 →
        exec (.sb rd rs n) s = .refused (.romStore (s.ea rs imm)))) ∧
    (∀ imm, s.constant (d ++ 0b0#1) = some imm → isOdd (s.ea rs imm) = false →
      (¬ s.Populated (s.ea rs imm) 2 →
        exec (.lc rd rs d) s = .refused (.unpopulated (s.ea rs imm)) ∧
        exec (.sc rd rs d) s = .refused (.unpopulated (s.ea rs imm))) ∧
      (s.Populated (s.ea rs imm) 2 → ¬ s.Ram (s.ea rs imm) 2 →
        exec (.sc rd rs d) s = .refused (.romStore (s.ea rs imm))) ∧
      (s.cfg.xlen = .w32 → ¬ s.Populated (s.ea rs imm) 4 →
        exec (.lw rd rs d) s = .refused (.unpopulated (s.ea rs imm)) ∧
        exec (.sw rd rs d) s = .refused (.unpopulated (s.ea rs imm))) ∧
      (s.cfg.xlen = .w32 → s.Populated (s.ea rs imm) 4 → ¬ s.Ram (s.ea rs imm) 4 →
        exec (.sw rd rs d) s = .refused (.romStore (s.ea rs imm))))

/-- 20_memory.md R70 (inferred there from R63): a word stored is the word a load of the same address
gives, and its four bytes are what byte loads give, in the order of the configuration. -/
def Obligations.StoreThenLoad : Prop :=
  ∀ (s : State) (rd rs rq : RegNo) (d : BitVec 3), s.cpfx = .none → s.cfg.xlen = .w32 →
    s.cfg.externalWriters = false → Memory.wf s.mem = true → rq ≠ 0x0#4 →
    ∀ imm, s.constant (d ++ 0b0#1) = some imm → isOdd (s.ea rs imm) = false →
      s.Populated (s.ea rs imm) 4 → s.Ram (s.ea rs imm) 4 →
      ∃ t u, exec (.sw rd rs d) s = .next t ∧ exec (.lw rq rs d) t = .next u ∧
        u.readReg rq = s.readReg rd ∧
        ∀ (r : RegNo) (k : Nat) (h : k < (bytesOfWord s.cfg.byteOrder (s.readReg rd)).length),
          t.readReg r = s.ea rs imm + BitVec.ofNat 32 k →
          ∃ v, exec (.lb rq r 0x0#4) t = .next v ∧
            v.readReg rq = (bytesOfWord s.cfg.byteOrder (s.readReg rd))[k].signExtend 32

/-- 20_memory.md R69, R76 (D17, D29): with EXTERNAL_WRITERS another master's burst lands before each
transfer, each byte the last one it writes to an address; LB and LC see one burst, LW one before
each of its two characters. That bursts come from a list is the model's choice (log entry 18). -/
def Obligations.LoadsBesideAnotherMaster : Prop :=
  (∀ (s : State) (p : Word), s.cfg.externalWriters = true → Memory.wf s.mem = true →
    s.turn.bus = s.bus.tail ∧
    s.turn.readByte p = (s.bus.head?.getD []).foldl
      (fun old w => if s.fit w.1 = p then w.2 else old) (s.readByte p)) ∧
  ∀ (s : State) (rd rs : RegNo) (n : BitVec 4) (d : BitVec 3) (imm : Word),
    rd ≠ 0x0#4 → s.cfg.externalWriters = true →
    (s.constant n = some imm → s.Populated (s.ea rs imm) 1 →
      ∃ t, exec (.lb rd rs n) s = .next t ∧ t.mem = s.turn.mem ∧ t.bus = s.turn.bus ∧
        t.readReg rd = s.fit ((s.turn.readByte (s.ea rs imm)).signExtend 32)) ∧
    (s.constant (d ++ 0b0#1) = some imm → isOdd (s.ea rs imm) = false →
      (s.Populated (s.ea rs imm) 2 →
        ∃ t, exec (.lc rd rs d) s = .next t ∧ t.mem = s.turn.mem ∧ t.bus = s.turn.bus ∧
          t.readReg rd = s.fit ((s.turn.charAt (s.ea rs imm)).signExtend 32)) ∧
      (s.cfg.xlen = .w32 → s.Populated (s.ea rs imm) 4 →
        ∃ t, exec (.lw rd rs d) s = .next t ∧ t.mem = s.turn.turn.mem ∧
          t.bus = s.turn.turn.bus ∧
          t.readReg rd = match s.cfg.byteOrder with
            | .little => s.turn.turn.charAt (s.ea rs imm + 2) ++ s.turn.charAt (s.ea rs imm)
            | .big => s.turn.charAt (s.ea rs imm) ++ s.turn.turn.charAt (s.ea rs imm + 2)))

/-- 20_memory.md R69, R76 (D17, D29): with EXTERNAL_WRITERS a store lands behind the other master's
burst; between the two characters of a word another burst lands, on the memory with the first
character stored. -/
def Obligations.StoresBesideAnotherMaster : Prop :=
  ∀ (s : State) (rd rs : RegNo) (n : BitVec 4) (d : BitVec 3) (imm : Word),
    s.cfg.externalWriters = true → Memory.wf s.mem = true →
    (s.constant n = some imm → s.Populated (s.ea rs imm) 1 → s.Ram (s.ea rs imm) 1 →
      ∃ t, exec (.sb rd rs n) s = .next t ∧
        BytesStored s.turn t (s.ea rs imm) [(s.readReg rd).extractLsb' 0 8]) ∧
    (s.constant (d ++ 0b0#1) = some imm → isOdd (s.ea rs imm) = false →
      (s.Populated (s.ea rs imm) 2 → s.Ram (s.ea rs imm) 2 →
        ∃ t, exec (.sc rd rs d) s = .next t ∧
          BytesStored s.turn t (s.ea rs imm)
            (bytesOfHalf s.cfg.byteOrder ((s.readReg rd).extractLsb' 0 16))) ∧
      (s.cfg.xlen = .w32 → s.Populated (s.ea rs imm) 4 → s.Ram (s.ea rs imm) 4 →
        ∃ t mid, exec (.sw rd rs d) s = .next t ∧ mid.bus = s.turn.bus ∧ mid.cfg = s.cfg ∧
          Memory.wf mid.mem = true ∧
          BytesStored s.turn mid (s.ea rs imm)
            ((bytesOfWord s.cfg.byteOrder (s.readReg rd)).take 2) ∧
          BytesStored mid.turn t (s.ea rs imm + 2)
            ((bytesOfWord s.cfg.byteOrder (s.readReg rd)).drop 2)))

/-! ## Miscellaneous -/

/-- 46_misc.md R254, R255: NOP and END have no effect. -/
def Obligations.NoOperations : Prop :=
  Encodes 0x0020#16 .nop ∧ NotPrefixable .nop ∧ Encodes 0x0022#16 .endMark ∧
  NotPrefixable .endMark ∧
  ∀ s : State, s.cpfx = .none → exec .nop s = .next s ∧ exec .endMark s = .next s

/-- 46_misc.md R253: STOP stops the core and changes nothing else (what a stopped core does is
`StoppedCoreStep`). -/
def Obligations.StopInstruction : Prop :=
  Encodes 0x0021#16 .stop ∧ NotPrefixable .stop ∧
  ∀ s : State, s.cpfx = .none → exec .stop s = .next { s with stopped := true }

/-- 46_misc.md R256, R257, 10_state.md R35 (D9, D10, D31): TSR and TRS for each special register; SR
keeps its reserved bits zero, VER is read only, and has no value in the sixteen-bit version (D23). -/
def Obligations.SpecialRegisterTransfers : Prop :=
  ∀ (s : State) (rd : RegNo),
    Encodes (0x3#4 ++ rd ++ 0xE#4 ++ 0x0#4) (.tsr rd .sr) ∧
    Encodes (0x3#4 ++ rd ++ 0xE#4 ++ 0x1#4) (.tsr rd .ilr) ∧
    Encodes (0x3#4 ++ rd ++ 0xE#4 ++ 0x3#4) (.tsr rd .ver) ∧
    Encodes (0x3#4 ++ rd ++ 0xF#4 ++ 0x0#4) (.trs rd .sr) ∧
    Encodes (0x3#4 ++ rd ++ 0xF#4 ++ 0x1#4) (.trs rd .ilr) ∧
    Encodes (0x3#4 ++ rd ++ 0xF#4 ++ 0x3#4) (.trs rd .ver) ∧
    (∀ spr, NotPrefixable (.tsr rd spr) ∧ NotPrefixable (.trs rd spr)) ∧
    (s.cpfx = .none →
      (∃ t, exec (.tsr rd .sr) s = .next t ∧ MovedTo s t rd (s.sr.setWidth 32)) ∧
      (s.fit s.ilr = s.ilr → ∃ t, exec (.tsr rd .ilr) s = .next t ∧ MovedTo s t rd s.ilr) ∧
      (s.cfg.xlen = .w32 →
        ∃ t, exec (.tsr rd .ver) s = .next t ∧ MovedTo s t rd 0x01000100#32) ∧
      (s.cfg.xlen = .w16 → exec (.tsr rd .ver) s = .refused .only32Bit) ∧
      (s.cfg.trsSrFullWrite = true → exec (.trs rd .sr) s = .next { s with
        sr := (s.readReg rd).extractLsb' 0 16 &&& 0x8F8F#16 }) ∧
      (s.cfg.trsSrFullWrite = false → exec (.trs rd .sr) s = .next { s with
        sr := s.sr.extractLsb' 4 12 ++ (s.readReg rd).extractLsb' 0 4 }) ∧
      exec (.trs rd .ilr) s = .next { s with ilr := s.fit (s.readReg rd) } ∧
      exec (.trs rd .ver) s = .next s)

/-! ## What every instruction leaves alone -/

/-- 10_state.md R24, R25, R276: an instruction changes no general register but its destination, r15
for the calls; r0 reads zero. -/
def Obligations.RegistersChangeOnlyAtDestination : Prop :=
  ∀ (i : Instr) (s t : State) (q : RegNo), exec i s = .next t →
    t.readReg 0x0#4 = 0x00000000#32 ∧ (destOf i ≠ some q → t.readReg q = s.readReg q)

/-- 10_state.md R41, with R31 for the backup half: an instruction changes no bit of SR but those the
table gives it (`srMaskOf`). Where the reserved bits are zero, as in every state that meets the invariant
(R32), they stay zero: what RTI, a system call or TRS to SR then changes is defined bits alone. TRS to SR
writes N, V, C and Z alone when TRS_SR_FULL_WRITE is off (D9). -/
def Obligations.StatusChangesOnlyAsTabled : Prop :=
  ∀ (i : Instr) (s t : State), exec i s = .next t →
    SrKept s t (srMaskOf i) ∧
    (s.sr &&& 0x7070#16 = 0x0000#16 → SrKept s t (srMaskOf i &&& 0x8F8F#16)) ∧
    (∀ rd, i = .trs rd .sr → s.cfg.trsSrFullWrite = false → SrKept s t 0x000F#16)

/-- 10_state.md R26, R33, R36, R37, R38, 20_memory.md R60: ILR is written only by system calls and TRS
to ILR, the pc only by control transfers, memory only by stores, the stopped flag only by STOP; only
CP leaves a prefix; no instruction touches the inputs or the parameters. -/
def Obligations.OtherStateChangesOnlyAsNamed : Prop :=
  ∀ (i : Instr) (s t : State), exec i s = .next t →
    (isSystemCall i = false → (∀ rd, i ≠ .trs rd .ilr) → t.ilr = s.ilr) ∧
    (isTransfer i = false → t.pc = s.pc) ∧
    (isStore i = false → t.stale = s.stale ∧
      (s.cfg.externalWriters = false → MemKept s t ∧ t.mem = s.mem ∧ t.bus = s.bus)) ∧
    (i ≠ .stop → t.stopped = s.stopped) ∧ (isPrefix i = false → t.cpfx = .none) ∧
    t.irq = s.irq ∧ t.nmiPending = s.nmiPending ∧ t.nmiLine = s.nmiLine ∧ t.env = s.env ∧
    t.free = s.free ∧ t.cfg = s.cfg
end

