-- ==== Sys2Proof/Laws/Decode.lean ====
section
/-! SUPPORT. The fields of a character built from its parts, and a character from its fields. -/

namespace Sys2Proof

@[simp] theorem fieldOp_nibbles (op f1 f2 f3 : BitVec 4) :
    fieldOp (nibbles op f1 f2 f3) = op := by
  apply BitVec.eq_of_getLsbD_eq
  intro i hi
  simp only [fieldOp, nibbles, BitVec.getLsbD_extractLsb', BitVec.getLsbD_append]
  interval_cases i <;> simp

@[simp] theorem fieldF1_nibbles (op f1 f2 f3 : BitVec 4) :
    fieldF1 (nibbles op f1 f2 f3) = f1 := by
  apply BitVec.eq_of_getLsbD_eq
  intro i hi
  simp only [fieldF1, nibbles, BitVec.getLsbD_extractLsb', BitVec.getLsbD_append]
  interval_cases i <;> simp

@[simp] theorem fieldF2_nibbles (op f1 f2 f3 : BitVec 4) :
    fieldF2 (nibbles op f1 f2 f3) = f2 := by
  apply BitVec.eq_of_getLsbD_eq
  intro i hi
  simp only [fieldF2, nibbles, BitVec.getLsbD_extractLsb', BitVec.getLsbD_append]
  interval_cases i <;> simp

@[simp] theorem fieldF3_nibbles (op f1 f2 f3 : BitVec 4) :
    fieldF3 (nibbles op f1 f2 f3) = f3 := by
  apply BitVec.eq_of_getLsbD_eq
  intro i hi
  simp only [fieldF3, nibbles, BitVec.getLsbD_extractLsb', BitVec.getLsbD_append]
  interval_cases i <;> simp

@[simp] theorem fieldOp_opLow12 (op : BitVec 4) (c : BitVec 12) :
    fieldOp (opLow12 op c) = op := by
  apply BitVec.eq_of_getLsbD_eq
  intro i hi
  simp only [fieldOp, opLow12, BitVec.getLsbD_extractLsb', BitVec.getLsbD_append]
  interval_cases i <;> simp

@[simp] theorem fieldLow12_opLow12 (op : BitVec 4) (c : BitVec 12) :
    fieldLow12 (opLow12 op c) = c := by
  apply BitVec.eq_of_getLsbD_eq
  intro i hi
  simp only [fieldLow12, opLow12, BitVec.getLsbD_extractLsb', BitVec.getLsbD_append]
  interval_cases i <;> simp

@[simp] theorem fieldOp_rrd3 (op rd rs : BitVec 4) (d : BitVec 3) (b : BitVec 1) :
    fieldOp (rrd3 op rd rs d b) = op := by
  apply BitVec.eq_of_getLsbD_eq
  intro i hi
  simp only [fieldOp, rrd3, BitVec.getLsbD_extractLsb', BitVec.getLsbD_append]
  interval_cases i <;> simp

@[simp] theorem fieldF1_rrd3 (op rd rs : BitVec 4) (d : BitVec 3) (b : BitVec 1) :
    fieldF1 (rrd3 op rd rs d b) = rd := by
  apply BitVec.eq_of_getLsbD_eq
  intro i hi
  simp only [fieldF1, rrd3, BitVec.getLsbD_extractLsb', BitVec.getLsbD_append]
  interval_cases i <;> simp

@[simp] theorem fieldF2_rrd3 (op rd rs : BitVec 4) (d : BitVec 3) (b : BitVec 1) :
    fieldF2 (rrd3 op rd rs d b) = rs := by
  apply BitVec.eq_of_getLsbD_eq
  intro i hi
  simp only [fieldF2, rrd3, BitVec.getLsbD_extractLsb', BitVec.getLsbD_append]
  interval_cases i <;> simp

@[simp] theorem fieldD3_rrd3 (op rd rs : BitVec 4) (d : BitVec 3) (b : BitVec 1) :
    fieldD3 (rrd3 op rd rs d b) = d := by
  apply BitVec.eq_of_getLsbD_eq
  intro i hi
  simp only [fieldD3, rrd3, BitVec.getLsbD_extractLsb', BitVec.getLsbD_append]
  interval_cases i <;> simp

@[simp] theorem fieldSize_rrd3 (op rd rs : BitVec 4) (d : BitVec 3) (b : BitVec 1) :
    fieldSize (rrd3 op rd rs d b) = b := by
  apply BitVec.eq_of_getLsbD_eq
  intro i hi
  simp only [fieldSize, rrd3, BitVec.getLsbD_extractLsb', BitVec.getLsbD_append]
  interval_cases i; simp

@[simp] theorem fieldF1_branchChar (code : BitVec 4) (d : BitVec 9) :
    fieldF1 (branchChar code d) = code := by
  apply BitVec.eq_of_getLsbD_eq
  intro i hi
  simp only [fieldF1, branchChar, BitVec.getLsbD_extractLsb', BitVec.getLsbD_append]
  interval_cases i <;> simp

@[simp] theorem fieldD9_branchChar (code : BitVec 4) (d : BitVec 9) :
    fieldD9 (branchChar code d) = d := by
  apply BitVec.eq_of_getLsbD_eq
  intro i hi
  simp only [fieldD9, branchChar, BitVec.getLsbD_extractLsb', BitVec.getLsbD_append]
  interval_cases i <;> simp

/-- The major opcode of a branch is A or B, by displacement bit 8 (30_encoding.md R97). -/
theorem fieldOp_branchChar (code : BitVec 4) (d : BitVec 9) :
    fieldOp (branchChar code d) = if d.getLsbD 8 then 0xB#4 else 0xA#4 := by
  apply BitVec.eq_of_getLsbD_eq
  intro i hi
  simp only [fieldOp, branchChar, BitVec.getLsbD_extractLsb', BitVec.getLsbD_append]
  cases h : d.getLsbD 8 <;> interval_cases i <;> simp_all

/-- A branch character decodes by its condition code, whatever its displacement. -/
theorem decodeChar_branchChar (cfg : Config) (code : BitVec 4) (d : BitVec 9) :
    decodeChar cfg (branchChar code d) = decodeBranch code d := by
  have h := fieldOp_branchChar code d
  unfold decodeChar
  cases hd : d.getLsbD 8 <;> simp only [hd, if_true, Bool.false_eq_true, if_false] at h <;>
    rw [h] <;> simp

/-! A character is its fields. -/

theorem nibbles_fields (w : Char16) :
    nibbles (fieldOp w) (fieldF1 w) (fieldF2 w) (fieldF3 w) = w := by
  apply BitVec.eq_of_getLsbD_eq
  intro i hi
  simp only [fieldOp, fieldF1, fieldF2, fieldF3, nibbles, BitVec.getLsbD_extractLsb',
    BitVec.getLsbD_append]
  interval_cases i <;> simp

theorem opLow12_fields (w : Char16) : opLow12 (fieldOp w) (fieldLow12 w) = w := by
  apply BitVec.eq_of_getLsbD_eq
  intro i hi
  simp only [fieldOp, fieldLow12, opLow12, BitVec.getLsbD_extractLsb', BitVec.getLsbD_append]
  interval_cases i <;> simp

theorem rrd3_fields (w : Char16) :
    rrd3 (fieldOp w) (fieldF1 w) (fieldF2 w) (fieldD3 w) (fieldSize w) = w := by
  apply BitVec.eq_of_getLsbD_eq
  intro i hi
  simp only [fieldOp, fieldF1, fieldF2, fieldD3, fieldSize, rrd3, BitVec.getLsbD_extractLsb',
    BitVec.getLsbD_append]
  interval_cases i <;> simp

/-! Bytes. -/

/-- A character put together from its own bytes, in either order. -/
@[simp] theorem charOfBytes_bytesOfChar (order : ByteOrder) (w : Char16) :
    charOfBytes order (bytesOfChar order w).1 (bytesOfChar order w).2 = w := by
  cases order <;>
  · apply BitVec.eq_of_getLsbD_eq
    intro i hi
    simp only [charOfBytes, bytesOfChar, BitVec.getLsbD_extractLsb', BitVec.getLsbD_append]
    interval_cases i <;> simp

end Sys2Proof
end

