-- ==== Sys2Proof/Laws/State.lean ====
section
/-! SUPPORT. One lemma for each field of `State` under each named update, and for each view of a state
(a register, a byte, a flag) that the update leaves alone. All hold by unfolding the update. -/

namespace Sys2Proof.Machine

variable (s : State)

@[simp] theorem State.writeReg_regs (i : RegNo) (v : Word) : (s.writeReg i v).regs = if i = 0x0#4 then s.regs else s.regs.set i.toNat (s.fit v) := rfl
@[simp] theorem State.writeReg_pc (i : RegNo) (v : Word) : (s.writeReg i v).pc = s.pc := rfl
@[simp] theorem State.writeReg_sr (i : RegNo) (v : Word) : (s.writeReg i v).sr = s.sr := rfl
@[simp] theorem State.writeReg_ilr (i : RegNo) (v : Word) : (s.writeReg i v).ilr = s.ilr := rfl
@[simp] theorem State.writeReg_cpfx (i : RegNo) (v : Word) : (s.writeReg i v).cpfx = s.cpfx := rfl
@[simp] theorem State.writeReg_stopped (i : RegNo) (v : Word) : (s.writeReg i v).stopped = s.stopped := rfl
@[simp] theorem State.writeReg_irq (i : RegNo) (v : Word) : (s.writeReg i v).irq = s.irq := rfl
@[simp] theorem State.writeReg_nmiPending (i : RegNo) (v : Word) : (s.writeReg i v).nmiPending = s.nmiPending := rfl
@[simp] theorem State.writeReg_mem (i : RegNo) (v : Word) : (s.writeReg i v).mem = s.mem := rfl
@[simp] theorem State.writeReg_nmiLine (i : RegNo) (v : Word) : (s.writeReg i v).nmiLine = s.nmiLine := rfl
@[simp] theorem State.writeReg_env (i : RegNo) (v : Word) : (s.writeReg i v).env = s.env := rfl
@[simp] theorem State.writeReg_bus (i : RegNo) (v : Word) : (s.writeReg i v).bus = s.bus := rfl
@[simp] theorem State.writeReg_stale (i : RegNo) (v : Word) : (s.writeReg i v).stale = s.stale := rfl
@[simp] theorem State.writeReg_free (i : RegNo) (v : Word) : (s.writeReg i v).free = s.free := rfl
@[simp] theorem State.writeReg_cfg (i : RegNo) (v : Word) : (s.writeReg i v).cfg = s.cfg := rfl
@[simp] theorem State.writeReg_readByte (i : RegNo) (v : Word) (p : Word) : (s.writeReg i v).readByte p = s.readByte p := rfl
@[simp] theorem State.writeReg_fit (i : RegNo) (v : Word) (x : Word) : (s.writeReg i v).fit x = s.fit x := rfl
@[simp] theorem State.writeReg_flagN (i : RegNo) (v : Word) : (s.writeReg i v).flagN = s.flagN := rfl
@[simp] theorem State.writeReg_flagV (i : RegNo) (v : Word) : (s.writeReg i v).flagV = s.flagV := rfl
@[simp] theorem State.writeReg_flagC (i : RegNo) (v : Word) : (s.writeReg i v).flagC = s.flagC := rfl
@[simp] theorem State.writeReg_flagZ (i : RegNo) (v : Word) : (s.writeReg i v).flagZ = s.flagZ := rfl
@[simp] theorem State.writeReg_flagI (i : RegNo) (v : Word) : (s.writeReg i v).flagI = s.flagI := rfl

@[simp] theorem State.jump_regs (t : Word) : (s.jump t).regs = s.regs := rfl
@[simp] theorem State.jump_pc (t : Word) : (s.jump t).pc = s.fit t := rfl
@[simp] theorem State.jump_sr (t : Word) : (s.jump t).sr = s.sr := rfl
@[simp] theorem State.jump_ilr (t : Word) : (s.jump t).ilr = s.ilr := rfl
@[simp] theorem State.jump_cpfx (t : Word) : (s.jump t).cpfx = s.cpfx := rfl
@[simp] theorem State.jump_stopped (t : Word) : (s.jump t).stopped = s.stopped := rfl
@[simp] theorem State.jump_irq (t : Word) : (s.jump t).irq = s.irq := rfl
@[simp] theorem State.jump_nmiPending (t : Word) : (s.jump t).nmiPending = s.nmiPending := rfl
@[simp] theorem State.jump_mem (t : Word) : (s.jump t).mem = s.mem := rfl
@[simp] theorem State.jump_nmiLine (t : Word) : (s.jump t).nmiLine = s.nmiLine := rfl
@[simp] theorem State.jump_env (t : Word) : (s.jump t).env = s.env := rfl
@[simp] theorem State.jump_bus (t : Word) : (s.jump t).bus = s.bus := rfl
@[simp] theorem State.jump_stale (t : Word) : (s.jump t).stale = s.stale := rfl
@[simp] theorem State.jump_free (t : Word) : (s.jump t).free = s.free := rfl
@[simp] theorem State.jump_cfg (t : Word) : (s.jump t).cfg = s.cfg := rfl
@[simp] theorem State.jump_readReg (t : Word) (q : RegNo) : (s.jump t).readReg q = s.readReg q := rfl
@[simp] theorem State.jump_readByte (t : Word) (p : Word) : (s.jump t).readByte p = s.readByte p := rfl
@[simp] theorem State.jump_fit (t : Word) (x : Word) : (s.jump t).fit x = s.fit x := rfl
@[simp] theorem State.jump_flagN (t : Word) : (s.jump t).flagN = s.flagN := rfl
@[simp] theorem State.jump_flagV (t : Word) : (s.jump t).flagV = s.flagV := rfl
@[simp] theorem State.jump_flagC (t : Word) : (s.jump t).flagC = s.flagC := rfl
@[simp] theorem State.jump_flagZ (t : Word) : (s.jump t).flagZ = s.flagZ := rfl
@[simp] theorem State.jump_flagI (t : Word) : (s.jump t).flagI = s.flagI := rfl

@[simp] theorem State.maskSr_regs (mask v : BitVec 16) : (s.maskSr mask v).regs = s.regs := rfl
@[simp] theorem State.maskSr_pc (mask v : BitVec 16) : (s.maskSr mask v).pc = s.pc := rfl
@[simp] theorem State.maskSr_sr (mask v : BitVec 16) : (s.maskSr mask v).sr = blend s.sr mask v := rfl
@[simp] theorem State.maskSr_ilr (mask v : BitVec 16) : (s.maskSr mask v).ilr = s.ilr := rfl
@[simp] theorem State.maskSr_cpfx (mask v : BitVec 16) : (s.maskSr mask v).cpfx = s.cpfx := rfl
@[simp] theorem State.maskSr_stopped (mask v : BitVec 16) : (s.maskSr mask v).stopped = s.stopped := rfl
@[simp] theorem State.maskSr_irq (mask v : BitVec 16) : (s.maskSr mask v).irq = s.irq := rfl
@[simp] theorem State.maskSr_nmiPending (mask v : BitVec 16) : (s.maskSr mask v).nmiPending = s.nmiPending := rfl
@[simp] theorem State.maskSr_mem (mask v : BitVec 16) : (s.maskSr mask v).mem = s.mem := rfl
@[simp] theorem State.maskSr_nmiLine (mask v : BitVec 16) : (s.maskSr mask v).nmiLine = s.nmiLine := rfl
@[simp] theorem State.maskSr_env (mask v : BitVec 16) : (s.maskSr mask v).env = s.env := rfl
@[simp] theorem State.maskSr_bus (mask v : BitVec 16) : (s.maskSr mask v).bus = s.bus := rfl
@[simp] theorem State.maskSr_stale (mask v : BitVec 16) : (s.maskSr mask v).stale = s.stale := rfl
@[simp] theorem State.maskSr_free (mask v : BitVec 16) : (s.maskSr mask v).free = s.free := rfl
@[simp] theorem State.maskSr_cfg (mask v : BitVec 16) : (s.maskSr mask v).cfg = s.cfg := rfl
@[simp] theorem State.maskSr_readReg (mask v : BitVec 16) (q : RegNo) : (s.maskSr mask v).readReg q = s.readReg q := rfl
@[simp] theorem State.maskSr_readByte (mask v : BitVec 16) (p : Word) : (s.maskSr mask v).readByte p = s.readByte p := rfl
@[simp] theorem State.maskSr_fit (mask v : BitVec 16) (x : Word) : (s.maskSr mask v).fit x = s.fit x := rfl

@[simp] theorem State.setNVCZ_regs (o : AluOut) : (s.setNVCZ o).regs = s.regs := rfl
@[simp] theorem State.setNVCZ_pc (o : AluOut) : (s.setNVCZ o).pc = s.pc := rfl
@[simp] theorem State.setNVCZ_sr (o : AluOut) : (s.setNVCZ o).sr = blend s.sr 0x000F#16 (flagBits o.n o.v o.c o.z) := rfl
@[simp] theorem State.setNVCZ_ilr (o : AluOut) : (s.setNVCZ o).ilr = s.ilr := rfl
@[simp] theorem State.setNVCZ_cpfx (o : AluOut) : (s.setNVCZ o).cpfx = s.cpfx := rfl
@[simp] theorem State.setNVCZ_stopped (o : AluOut) : (s.setNVCZ o).stopped = s.stopped := rfl
@[simp] theorem State.setNVCZ_irq (o : AluOut) : (s.setNVCZ o).irq = s.irq := rfl
@[simp] theorem State.setNVCZ_nmiPending (o : AluOut) : (s.setNVCZ o).nmiPending = s.nmiPending := rfl
@[simp] theorem State.setNVCZ_mem (o : AluOut) : (s.setNVCZ o).mem = s.mem := rfl
@[simp] theorem State.setNVCZ_nmiLine (o : AluOut) : (s.setNVCZ o).nmiLine = s.nmiLine := rfl
@[simp] theorem State.setNVCZ_env (o : AluOut) : (s.setNVCZ o).env = s.env := rfl
@[simp] theorem State.setNVCZ_bus (o : AluOut) : (s.setNVCZ o).bus = s.bus := rfl
@[simp] theorem State.setNVCZ_stale (o : AluOut) : (s.setNVCZ o).stale = s.stale := rfl
@[simp] theorem State.setNVCZ_free (o : AluOut) : (s.setNVCZ o).free = s.free := rfl
@[simp] theorem State.setNVCZ_cfg (o : AluOut) : (s.setNVCZ o).cfg = s.cfg := rfl
@[simp] theorem State.setNVCZ_readReg (o : AluOut) (q : RegNo) : (s.setNVCZ o).readReg q = s.readReg q := rfl
@[simp] theorem State.setNVCZ_readByte (o : AluOut) (p : Word) : (s.setNVCZ o).readByte p = s.readByte p := rfl
@[simp] theorem State.setNVCZ_fit (o : AluOut) (x : Word) : (s.setNVCZ o).fit x = s.fit x := rfl

@[simp] theorem State.setNZ_regs (r : Word) : (s.setNZ r).regs = s.regs := rfl
@[simp] theorem State.setNZ_pc (r : Word) : (s.setNZ r).pc = s.pc := rfl
@[simp] theorem State.setNZ_sr (r : Word) : (s.setNZ r).sr = blend s.sr 0x0009#16 (flagBits (msbOf s.cfg.xlen r) false false (r == 0x00000000#32)) := rfl
@[simp] theorem State.setNZ_ilr (r : Word) : (s.setNZ r).ilr = s.ilr := rfl
@[simp] theorem State.setNZ_cpfx (r : Word) : (s.setNZ r).cpfx = s.cpfx := rfl
@[simp] theorem State.setNZ_stopped (r : Word) : (s.setNZ r).stopped = s.stopped := rfl
@[simp] theorem State.setNZ_irq (r : Word) : (s.setNZ r).irq = s.irq := rfl
@[simp] theorem State.setNZ_nmiPending (r : Word) : (s.setNZ r).nmiPending = s.nmiPending := rfl
@[simp] theorem State.setNZ_mem (r : Word) : (s.setNZ r).mem = s.mem := rfl
@[simp] theorem State.setNZ_nmiLine (r : Word) : (s.setNZ r).nmiLine = s.nmiLine := rfl
@[simp] theorem State.setNZ_env (r : Word) : (s.setNZ r).env = s.env := rfl
@[simp] theorem State.setNZ_bus (r : Word) : (s.setNZ r).bus = s.bus := rfl
@[simp] theorem State.setNZ_stale (r : Word) : (s.setNZ r).stale = s.stale := rfl
@[simp] theorem State.setNZ_free (r : Word) : (s.setNZ r).free = s.free := rfl
@[simp] theorem State.setNZ_cfg (r : Word) : (s.setNZ r).cfg = s.cfg := rfl
@[simp] theorem State.setNZ_readReg (r : Word) (q : RegNo) : (s.setNZ r).readReg q = s.readReg q := rfl
@[simp] theorem State.setNZ_readByte (r : Word) (p : Word) : (s.setNZ r).readByte p = s.readByte p := rfl
@[simp] theorem State.setNZ_fit (r : Word) (x : Word) : (s.setNZ r).fit x = s.fit x := rfl

@[simp] theorem State.setNCZ_regs (r : Word) (c : Bool) : (s.setNCZ r c).regs = s.regs := rfl
@[simp] theorem State.setNCZ_pc (r : Word) (c : Bool) : (s.setNCZ r c).pc = s.pc := rfl
@[simp] theorem State.setNCZ_sr (r : Word) (c : Bool) : (s.setNCZ r c).sr = blend s.sr 0x000B#16 (flagBits (msbOf s.cfg.xlen r) false c (r == 0x00000000#32)) := rfl
@[simp] theorem State.setNCZ_ilr (r : Word) (c : Bool) : (s.setNCZ r c).ilr = s.ilr := rfl
@[simp] theorem State.setNCZ_cpfx (r : Word) (c : Bool) : (s.setNCZ r c).cpfx = s.cpfx := rfl
@[simp] theorem State.setNCZ_stopped (r : Word) (c : Bool) : (s.setNCZ r c).stopped = s.stopped := rfl
@[simp] theorem State.setNCZ_irq (r : Word) (c : Bool) : (s.setNCZ r c).irq = s.irq := rfl
@[simp] theorem State.setNCZ_nmiPending (r : Word) (c : Bool) : (s.setNCZ r c).nmiPending = s.nmiPending := rfl
@[simp] theorem State.setNCZ_mem (r : Word) (c : Bool) : (s.setNCZ r c).mem = s.mem := rfl
@[simp] theorem State.setNCZ_nmiLine (r : Word) (c : Bool) : (s.setNCZ r c).nmiLine = s.nmiLine := rfl
@[simp] theorem State.setNCZ_env (r : Word) (c : Bool) : (s.setNCZ r c).env = s.env := rfl
@[simp] theorem State.setNCZ_bus (r : Word) (c : Bool) : (s.setNCZ r c).bus = s.bus := rfl
@[simp] theorem State.setNCZ_stale (r : Word) (c : Bool) : (s.setNCZ r c).stale = s.stale := rfl
@[simp] theorem State.setNCZ_free (r : Word) (c : Bool) : (s.setNCZ r c).free = s.free := rfl
@[simp] theorem State.setNCZ_cfg (r : Word) (c : Bool) : (s.setNCZ r c).cfg = s.cfg := rfl
@[simp] theorem State.setNCZ_readReg (r : Word) (c : Bool) (q : RegNo) : (s.setNCZ r c).readReg q = s.readReg q := rfl
@[simp] theorem State.setNCZ_readByte (r : Word) (c : Bool) (p : Word) : (s.setNCZ r c).readByte p = s.readByte p := rfl
@[simp] theorem State.setNCZ_fit (r : Word) (c : Bool) (x : Word) : (s.setNCZ r c).fit x = s.fit x := rfl

@[simp] theorem State.setI_regs (b : Bool) : (s.setI b).regs = s.regs := rfl
@[simp] theorem State.setI_pc (b : Bool) : (s.setI b).pc = s.pc := rfl
@[simp] theorem State.setI_sr (b : Bool) : (s.setI b).sr = blend s.sr 0x0080#16 (if b then 0x0080#16 else 0x0000#16) := rfl
@[simp] theorem State.setI_ilr (b : Bool) : (s.setI b).ilr = s.ilr := rfl
@[simp] theorem State.setI_cpfx (b : Bool) : (s.setI b).cpfx = s.cpfx := rfl
@[simp] theorem State.setI_stopped (b : Bool) : (s.setI b).stopped = s.stopped := rfl
@[simp] theorem State.setI_irq (b : Bool) : (s.setI b).irq = s.irq := rfl
@[simp] theorem State.setI_nmiPending (b : Bool) : (s.setI b).nmiPending = s.nmiPending := rfl
@[simp] theorem State.setI_mem (b : Bool) : (s.setI b).mem = s.mem := rfl
@[simp] theorem State.setI_nmiLine (b : Bool) : (s.setI b).nmiLine = s.nmiLine := rfl
@[simp] theorem State.setI_env (b : Bool) : (s.setI b).env = s.env := rfl
@[simp] theorem State.setI_bus (b : Bool) : (s.setI b).bus = s.bus := rfl
@[simp] theorem State.setI_stale (b : Bool) : (s.setI b).stale = s.stale := rfl
@[simp] theorem State.setI_free (b : Bool) : (s.setI b).free = s.free := rfl
@[simp] theorem State.setI_cfg (b : Bool) : (s.setI b).cfg = s.cfg := rfl
@[simp] theorem State.setI_readReg (b : Bool) (q : RegNo) : (s.setI b).readReg q = s.readReg q := rfl
@[simp] theorem State.setI_readByte (b : Bool) (p : Word) : (s.setI b).readByte p = s.readByte p := rfl
@[simp] theorem State.setI_fit (b : Bool) (x : Word) : (s.setI b).fit x = s.fit x := rfl

@[simp] theorem State.writeAlu_regs (rd : RegNo) (o : AluOut) : (s.writeAlu rd o).regs = (s.writeReg rd o.value).regs := rfl
@[simp] theorem State.writeAlu_pc (rd : RegNo) (o : AluOut) : (s.writeAlu rd o).pc = s.pc := rfl
@[simp] theorem State.writeAlu_sr (rd : RegNo) (o : AluOut) : (s.writeAlu rd o).sr = (s.setNVCZ o).sr := rfl
@[simp] theorem State.writeAlu_ilr (rd : RegNo) (o : AluOut) : (s.writeAlu rd o).ilr = s.ilr := rfl
@[simp] theorem State.writeAlu_cpfx (rd : RegNo) (o : AluOut) : (s.writeAlu rd o).cpfx = s.cpfx := rfl
@[simp] theorem State.writeAlu_stopped (rd : RegNo) (o : AluOut) : (s.writeAlu rd o).stopped = s.stopped := rfl
@[simp] theorem State.writeAlu_irq (rd : RegNo) (o : AluOut) : (s.writeAlu rd o).irq = s.irq := rfl
@[simp] theorem State.writeAlu_nmiPending (rd : RegNo) (o : AluOut) : (s.writeAlu rd o).nmiPending = s.nmiPending := rfl
@[simp] theorem State.writeAlu_mem (rd : RegNo) (o : AluOut) : (s.writeAlu rd o).mem = s.mem := rfl
@[simp] theorem State.writeAlu_nmiLine (rd : RegNo) (o : AluOut) : (s.writeAlu rd o).nmiLine = s.nmiLine := rfl
@[simp] theorem State.writeAlu_env (rd : RegNo) (o : AluOut) : (s.writeAlu rd o).env = s.env := rfl
@[simp] theorem State.writeAlu_bus (rd : RegNo) (o : AluOut) : (s.writeAlu rd o).bus = s.bus := rfl
@[simp] theorem State.writeAlu_stale (rd : RegNo) (o : AluOut) : (s.writeAlu rd o).stale = s.stale := rfl
@[simp] theorem State.writeAlu_free (rd : RegNo) (o : AluOut) : (s.writeAlu rd o).free = s.free := rfl
@[simp] theorem State.writeAlu_cfg (rd : RegNo) (o : AluOut) : (s.writeAlu rd o).cfg = s.cfg := rfl
@[simp] theorem State.writeAlu_readByte (rd : RegNo) (o : AluOut) (p : Word) : (s.writeAlu rd o).readByte p = s.readByte p := rfl
@[simp] theorem State.writeAlu_fit (rd : RegNo) (o : AluOut) (x : Word) : (s.writeAlu rd o).fit x = s.fit x := rfl

@[simp] theorem State.writeNZ_regs (rd : RegNo) (r : Word) : (s.writeNZ rd r).regs = (s.writeReg rd r).regs := rfl
@[simp] theorem State.writeNZ_pc (rd : RegNo) (r : Word) : (s.writeNZ rd r).pc = s.pc := rfl
@[simp] theorem State.writeNZ_sr (rd : RegNo) (r : Word) : (s.writeNZ rd r).sr = (s.setNZ r).sr := rfl
@[simp] theorem State.writeNZ_ilr (rd : RegNo) (r : Word) : (s.writeNZ rd r).ilr = s.ilr := rfl
@[simp] theorem State.writeNZ_cpfx (rd : RegNo) (r : Word) : (s.writeNZ rd r).cpfx = s.cpfx := rfl
@[simp] theorem State.writeNZ_stopped (rd : RegNo) (r : Word) : (s.writeNZ rd r).stopped = s.stopped := rfl
@[simp] theorem State.writeNZ_irq (rd : RegNo) (r : Word) : (s.writeNZ rd r).irq = s.irq := rfl
@[simp] theorem State.writeNZ_nmiPending (rd : RegNo) (r : Word) : (s.writeNZ rd r).nmiPending = s.nmiPending := rfl
@[simp] theorem State.writeNZ_mem (rd : RegNo) (r : Word) : (s.writeNZ rd r).mem = s.mem := rfl
@[simp] theorem State.writeNZ_nmiLine (rd : RegNo) (r : Word) : (s.writeNZ rd r).nmiLine = s.nmiLine := rfl
@[simp] theorem State.writeNZ_env (rd : RegNo) (r : Word) : (s.writeNZ rd r).env = s.env := rfl
@[simp] theorem State.writeNZ_bus (rd : RegNo) (r : Word) : (s.writeNZ rd r).bus = s.bus := rfl
@[simp] theorem State.writeNZ_stale (rd : RegNo) (r : Word) : (s.writeNZ rd r).stale = s.stale := rfl
@[simp] theorem State.writeNZ_free (rd : RegNo) (r : Word) : (s.writeNZ rd r).free = s.free := rfl
@[simp] theorem State.writeNZ_cfg (rd : RegNo) (r : Word) : (s.writeNZ rd r).cfg = s.cfg := rfl
@[simp] theorem State.writeNZ_readByte (rd : RegNo) (r : Word) (p : Word) : (s.writeNZ rd r).readByte p = s.readByte p := rfl
@[simp] theorem State.writeNZ_fit (rd : RegNo) (r : Word) (x : Word) : (s.writeNZ rd r).fit x = s.fit x := rfl

@[simp] theorem State.writeNCZ_regs (rd : RegNo) (r : Word) (c : Bool) : (s.writeNCZ rd r c).regs = (s.writeReg rd r).regs := rfl
@[simp] theorem State.writeNCZ_pc (rd : RegNo) (r : Word) (c : Bool) : (s.writeNCZ rd r c).pc = s.pc := rfl
@[simp] theorem State.writeNCZ_sr (rd : RegNo) (r : Word) (c : Bool) : (s.writeNCZ rd r c).sr = (s.setNCZ r c).sr := rfl
@[simp] theorem State.writeNCZ_ilr (rd : RegNo) (r : Word) (c : Bool) : (s.writeNCZ rd r c).ilr = s.ilr := rfl
@[simp] theorem State.writeNCZ_cpfx (rd : RegNo) (r : Word) (c : Bool) : (s.writeNCZ rd r c).cpfx = s.cpfx := rfl
@[simp] theorem State.writeNCZ_stopped (rd : RegNo) (r : Word) (c : Bool) : (s.writeNCZ rd r c).stopped = s.stopped := rfl
@[simp] theorem State.writeNCZ_irq (rd : RegNo) (r : Word) (c : Bool) : (s.writeNCZ rd r c).irq = s.irq := rfl
@[simp] theorem State.writeNCZ_nmiPending (rd : RegNo) (r : Word) (c : Bool) : (s.writeNCZ rd r c).nmiPending = s.nmiPending := rfl
@[simp] theorem State.writeNCZ_mem (rd : RegNo) (r : Word) (c : Bool) : (s.writeNCZ rd r c).mem = s.mem := rfl
@[simp] theorem State.writeNCZ_nmiLine (rd : RegNo) (r : Word) (c : Bool) : (s.writeNCZ rd r c).nmiLine = s.nmiLine := rfl
@[simp] theorem State.writeNCZ_env (rd : RegNo) (r : Word) (c : Bool) : (s.writeNCZ rd r c).env = s.env := rfl
@[simp] theorem State.writeNCZ_bus (rd : RegNo) (r : Word) (c : Bool) : (s.writeNCZ rd r c).bus = s.bus := rfl
@[simp] theorem State.writeNCZ_stale (rd : RegNo) (r : Word) (c : Bool) : (s.writeNCZ rd r c).stale = s.stale := rfl
@[simp] theorem State.writeNCZ_free (rd : RegNo) (r : Word) (c : Bool) : (s.writeNCZ rd r c).free = s.free := rfl
@[simp] theorem State.writeNCZ_cfg (rd : RegNo) (r : Word) (c : Bool) : (s.writeNCZ rd r c).cfg = s.cfg := rfl
@[simp] theorem State.writeNCZ_readByte (rd : RegNo) (r : Word) (c : Bool) (p : Word) : (s.writeNCZ rd r c).readByte p = s.readByte p := rfl
@[simp] theorem State.writeNCZ_fit (rd : RegNo) (r : Word) (c : Bool) (x : Word) : (s.writeNCZ rd r c).fit x = s.fit x := rfl

@[simp] theorem State.clearCpfx_regs : (s.clearCpfx).regs = s.regs := rfl
@[simp] theorem State.clearCpfx_pc : (s.clearCpfx).pc = s.pc := rfl
@[simp] theorem State.clearCpfx_sr : (s.clearCpfx).sr = s.sr := rfl
@[simp] theorem State.clearCpfx_ilr : (s.clearCpfx).ilr = s.ilr := rfl
@[simp] theorem State.clearCpfx_cpfx : (s.clearCpfx).cpfx = .none := rfl
@[simp] theorem State.clearCpfx_stopped : (s.clearCpfx).stopped = s.stopped := rfl
@[simp] theorem State.clearCpfx_irq : (s.clearCpfx).irq = s.irq := rfl
@[simp] theorem State.clearCpfx_nmiPending : (s.clearCpfx).nmiPending = s.nmiPending := rfl
@[simp] theorem State.clearCpfx_mem : (s.clearCpfx).mem = s.mem := rfl
@[simp] theorem State.clearCpfx_nmiLine : (s.clearCpfx).nmiLine = s.nmiLine := rfl
@[simp] theorem State.clearCpfx_env : (s.clearCpfx).env = s.env := rfl
@[simp] theorem State.clearCpfx_bus : (s.clearCpfx).bus = s.bus := rfl
@[simp] theorem State.clearCpfx_stale : (s.clearCpfx).stale = s.stale := rfl
@[simp] theorem State.clearCpfx_free : (s.clearCpfx).free = s.free := rfl
@[simp] theorem State.clearCpfx_cfg : (s.clearCpfx).cfg = s.cfg := rfl
@[simp] theorem State.clearCpfx_readReg (q : RegNo) : (s.clearCpfx).readReg q = s.readReg q := rfl
@[simp] theorem State.clearCpfx_readByte (p : Word) : (s.clearCpfx).readByte p = s.readByte p := rfl
@[simp] theorem State.clearCpfx_fit (x : Word) : (s.clearCpfx).fit x = s.fit x := rfl
@[simp] theorem State.clearCpfx_flagN : (s.clearCpfx).flagN = s.flagN := rfl
@[simp] theorem State.clearCpfx_flagV : (s.clearCpfx).flagV = s.flagV := rfl
@[simp] theorem State.clearCpfx_flagC : (s.clearCpfx).flagC = s.flagC := rfl
@[simp] theorem State.clearCpfx_flagZ : (s.clearCpfx).flagZ = s.flagZ := rfl
@[simp] theorem State.clearCpfx_flagI : (s.clearCpfx).flagI = s.flagI := rfl

@[simp] theorem State.noteStale_regs (b : Bool) : (s.noteStale b).regs = s.regs := rfl
@[simp] theorem State.noteStale_pc (b : Bool) : (s.noteStale b).pc = s.pc := rfl
@[simp] theorem State.noteStale_sr (b : Bool) : (s.noteStale b).sr = s.sr := rfl
@[simp] theorem State.noteStale_ilr (b : Bool) : (s.noteStale b).ilr = s.ilr := rfl
@[simp] theorem State.noteStale_cpfx (b : Bool) : (s.noteStale b).cpfx = s.cpfx := rfl
@[simp] theorem State.noteStale_stopped (b : Bool) : (s.noteStale b).stopped = s.stopped := rfl
@[simp] theorem State.noteStale_irq (b : Bool) : (s.noteStale b).irq = s.irq := rfl
@[simp] theorem State.noteStale_nmiPending (b : Bool) : (s.noteStale b).nmiPending = s.nmiPending := rfl
@[simp] theorem State.noteStale_mem (b : Bool) : (s.noteStale b).mem = s.mem := rfl
@[simp] theorem State.noteStale_nmiLine (b : Bool) : (s.noteStale b).nmiLine = s.nmiLine := rfl
@[simp] theorem State.noteStale_env (b : Bool) : (s.noteStale b).env = s.env := rfl
@[simp] theorem State.noteStale_bus (b : Bool) : (s.noteStale b).bus = s.bus := rfl
@[simp] theorem State.noteStale_stale (b : Bool) : (s.noteStale b).stale = b := rfl
@[simp] theorem State.noteStale_free (b : Bool) : (s.noteStale b).free = s.free := rfl
@[simp] theorem State.noteStale_cfg (b : Bool) : (s.noteStale b).cfg = s.cfg := rfl
@[simp] theorem State.noteStale_readReg (b : Bool) (q : RegNo) : (s.noteStale b).readReg q = s.readReg q := rfl
@[simp] theorem State.noteStale_readByte (b : Bool) (p : Word) : (s.noteStale b).readByte p = s.readByte p := rfl
@[simp] theorem State.noteStale_fit (b : Bool) (x : Word) : (s.noteStale b).fit x = s.fit x := rfl
@[simp] theorem State.noteStale_flagN (b : Bool) : (s.noteStale b).flagN = s.flagN := rfl
@[simp] theorem State.noteStale_flagV (b : Bool) : (s.noteStale b).flagV = s.flagV := rfl
@[simp] theorem State.noteStale_flagC (b : Bool) : (s.noteStale b).flagC = s.flagC := rfl
@[simp] theorem State.noteStale_flagZ (b : Bool) : (s.noteStale b).flagZ = s.flagZ := rfl
@[simp] theorem State.noteStale_flagI (b : Bool) : (s.noteStale b).flagI = s.flagI := rfl

@[simp] theorem State.writeByte_regs (a : Word) (b : Byte) : (s.writeByte a b).regs = s.regs := rfl
@[simp] theorem State.writeByte_pc (a : Word) (b : Byte) : (s.writeByte a b).pc = s.pc := rfl
@[simp] theorem State.writeByte_sr (a : Word) (b : Byte) : (s.writeByte a b).sr = s.sr := rfl
@[simp] theorem State.writeByte_ilr (a : Word) (b : Byte) : (s.writeByte a b).ilr = s.ilr := rfl
@[simp] theorem State.writeByte_cpfx (a : Word) (b : Byte) : (s.writeByte a b).cpfx = s.cpfx := rfl
@[simp] theorem State.writeByte_stopped (a : Word) (b : Byte) : (s.writeByte a b).stopped = s.stopped := rfl
@[simp] theorem State.writeByte_irq (a : Word) (b : Byte) : (s.writeByte a b).irq = s.irq := rfl
@[simp] theorem State.writeByte_nmiPending (a : Word) (b : Byte) : (s.writeByte a b).nmiPending = s.nmiPending := rfl
@[simp] theorem State.writeByte_mem (a : Word) (b : Byte) : (s.writeByte a b).mem = Memory.write s.mem a.toNat b := rfl
@[simp] theorem State.writeByte_nmiLine (a : Word) (b : Byte) : (s.writeByte a b).nmiLine = s.nmiLine := rfl
@[simp] theorem State.writeByte_env (a : Word) (b : Byte) : (s.writeByte a b).env = s.env := rfl
@[simp] theorem State.writeByte_bus (a : Word) (b : Byte) : (s.writeByte a b).bus = s.bus := rfl
@[simp] theorem State.writeByte_stale (a : Word) (b : Byte) : (s.writeByte a b).stale = s.stale := rfl
@[simp] theorem State.writeByte_free (a : Word) (b : Byte) : (s.writeByte a b).free = s.free := rfl
@[simp] theorem State.writeByte_cfg (a : Word) (b : Byte) : (s.writeByte a b).cfg = s.cfg := rfl
@[simp] theorem State.writeByte_readReg (a : Word) (b : Byte) (q : RegNo) : (s.writeByte a b).readReg q = s.readReg q := rfl
@[simp] theorem State.writeByte_fit (a : Word) (b : Byte) (x : Word) : (s.writeByte a b).fit x = s.fit x := rfl
@[simp] theorem State.writeByte_flagN (a : Word) (b : Byte) : (s.writeByte a b).flagN = s.flagN := rfl
@[simp] theorem State.writeByte_flagV (a : Word) (b : Byte) : (s.writeByte a b).flagV = s.flagV := rfl
@[simp] theorem State.writeByte_flagC (a : Word) (b : Byte) : (s.writeByte a b).flagC = s.flagC := rfl
@[simp] theorem State.writeByte_flagZ (a : Word) (b : Byte) : (s.writeByte a b).flagZ = s.flagZ := rfl
@[simp] theorem State.writeByte_flagI (a : Word) (b : Byte) : (s.writeByte a b).flagI = s.flagI := rfl

@[simp] theorem State.writeChar_regs (a : Word) (c : Char16) : (s.writeChar a c).regs = s.regs := rfl
@[simp] theorem State.writeChar_pc (a : Word) (c : Char16) : (s.writeChar a c).pc = s.pc := rfl
@[simp] theorem State.writeChar_sr (a : Word) (c : Char16) : (s.writeChar a c).sr = s.sr := rfl
@[simp] theorem State.writeChar_ilr (a : Word) (c : Char16) : (s.writeChar a c).ilr = s.ilr := rfl
@[simp] theorem State.writeChar_cpfx (a : Word) (c : Char16) : (s.writeChar a c).cpfx = s.cpfx := rfl
@[simp] theorem State.writeChar_stopped (a : Word) (c : Char16) : (s.writeChar a c).stopped = s.stopped := rfl
@[simp] theorem State.writeChar_irq (a : Word) (c : Char16) : (s.writeChar a c).irq = s.irq := rfl
@[simp] theorem State.writeChar_nmiPending (a : Word) (c : Char16) : (s.writeChar a c).nmiPending = s.nmiPending := rfl
@[simp] theorem State.writeChar_nmiLine (a : Word) (c : Char16) : (s.writeChar a c).nmiLine = s.nmiLine := rfl
@[simp] theorem State.writeChar_env (a : Word) (c : Char16) : (s.writeChar a c).env = s.env := rfl
@[simp] theorem State.writeChar_bus (a : Word) (c : Char16) : (s.writeChar a c).bus = s.bus := rfl
@[simp] theorem State.writeChar_stale (a : Word) (c : Char16) : (s.writeChar a c).stale = s.stale := rfl
@[simp] theorem State.writeChar_free (a : Word) (c : Char16) : (s.writeChar a c).free = s.free := rfl
@[simp] theorem State.writeChar_cfg (a : Word) (c : Char16) : (s.writeChar a c).cfg = s.cfg := rfl
@[simp] theorem State.writeChar_readReg (a : Word) (c : Char16) (q : RegNo) : (s.writeChar a c).readReg q = s.readReg q := rfl
@[simp] theorem State.writeChar_fit (a : Word) (c : Char16) (x : Word) : (s.writeChar a c).fit x = s.fit x := rfl
@[simp] theorem State.writeChar_flagN (a : Word) (c : Char16) : (s.writeChar a c).flagN = s.flagN := rfl
@[simp] theorem State.writeChar_flagV (a : Word) (c : Char16) : (s.writeChar a c).flagV = s.flagV := rfl
@[simp] theorem State.writeChar_flagC (a : Word) (c : Char16) : (s.writeChar a c).flagC = s.flagC := rfl
@[simp] theorem State.writeChar_flagZ (a : Word) (c : Char16) : (s.writeChar a c).flagZ = s.flagZ := rfl
@[simp] theorem State.writeChar_flagI (a : Word) (c : Char16) : (s.writeChar a c).flagI = s.flagI := rfl

@[simp] theorem State.turn_regs : (s.turn).regs = s.regs := rfl
@[simp] theorem State.turn_pc : (s.turn).pc = s.pc := rfl
@[simp] theorem State.turn_sr : (s.turn).sr = s.sr := rfl
@[simp] theorem State.turn_ilr : (s.turn).ilr = s.ilr := rfl
@[simp] theorem State.turn_cpfx : (s.turn).cpfx = s.cpfx := rfl
@[simp] theorem State.turn_stopped : (s.turn).stopped = s.stopped := rfl
@[simp] theorem State.turn_irq : (s.turn).irq = s.irq := rfl
@[simp] theorem State.turn_nmiPending : (s.turn).nmiPending = s.nmiPending := rfl
@[simp] theorem State.turn_nmiLine : (s.turn).nmiLine = s.nmiLine := rfl
@[simp] theorem State.turn_env : (s.turn).env = s.env := rfl
@[simp] theorem State.turn_stale : (s.turn).stale = s.stale := rfl
@[simp] theorem State.turn_free : (s.turn).free = s.free := rfl
@[simp] theorem State.turn_cfg : (s.turn).cfg = s.cfg := rfl
@[simp] theorem State.turn_readReg (q : RegNo) : (s.turn).readReg q = s.readReg q := rfl
@[simp] theorem State.turn_fit (x : Word) : (s.turn).fit x = s.fit x := rfl
@[simp] theorem State.turn_flagN : (s.turn).flagN = s.flagN := rfl
@[simp] theorem State.turn_flagV : (s.turn).flagV = s.flagV := rfl
@[simp] theorem State.turn_flagC : (s.turn).flagC = s.flagC := rfl
@[simp] theorem State.turn_flagZ : (s.turn).flagZ = s.flagZ := rfl
@[simp] theorem State.turn_flagI : (s.turn).flagI = s.flagI := rfl

@[simp] theorem State.storeByte_regs (a : Word) (b : Byte) : (s.storeByte a b).regs = s.regs := by simp only [State.storeByte, State.writeByte_regs, State.turn_regs]
@[simp] theorem State.storeByte_pc (a : Word) (b : Byte) : (s.storeByte a b).pc = s.pc := by simp only [State.storeByte, State.writeByte_pc, State.turn_pc]
@[simp] theorem State.storeByte_sr (a : Word) (b : Byte) : (s.storeByte a b).sr = s.sr := by simp only [State.storeByte, State.writeByte_sr, State.turn_sr]
@[simp] theorem State.storeByte_ilr (a : Word) (b : Byte) : (s.storeByte a b).ilr = s.ilr := by simp only [State.storeByte, State.writeByte_ilr, State.turn_ilr]
@[simp] theorem State.storeByte_cpfx (a : Word) (b : Byte) : (s.storeByte a b).cpfx = s.cpfx := by simp only [State.storeByte, State.writeByte_cpfx, State.turn_cpfx]
@[simp] theorem State.storeByte_stopped (a : Word) (b : Byte) : (s.storeByte a b).stopped = s.stopped := by simp only [State.storeByte, State.writeByte_stopped, State.turn_stopped]
@[simp] theorem State.storeByte_irq (a : Word) (b : Byte) : (s.storeByte a b).irq = s.irq := by simp only [State.storeByte, State.writeByte_irq, State.turn_irq]
@[simp] theorem State.storeByte_nmiPending (a : Word) (b : Byte) : (s.storeByte a b).nmiPending = s.nmiPending := by simp only [State.storeByte, State.writeByte_nmiPending, State.turn_nmiPending]
@[simp] theorem State.storeByte_nmiLine (a : Word) (b : Byte) : (s.storeByte a b).nmiLine = s.nmiLine := by simp only [State.storeByte, State.writeByte_nmiLine, State.turn_nmiLine]
@[simp] theorem State.storeByte_env (a : Word) (b : Byte) : (s.storeByte a b).env = s.env := by simp only [State.storeByte, State.writeByte_env, State.turn_env]
@[simp] theorem State.storeByte_bus (a : Word) (b : Byte) : (s.storeByte a b).bus = s.turn.bus := rfl
@[simp] theorem State.storeByte_stale (a : Word) (b : Byte) : (s.storeByte a b).stale = s.stale := by simp only [State.storeByte, State.writeByte_stale, State.turn_stale]
@[simp] theorem State.storeByte_free (a : Word) (b : Byte) : (s.storeByte a b).free = s.free := by simp only [State.storeByte, State.writeByte_free, State.turn_free]
@[simp] theorem State.storeByte_cfg (a : Word) (b : Byte) : (s.storeByte a b).cfg = s.cfg := by simp only [State.storeByte, State.writeByte_cfg, State.turn_cfg]
@[simp] theorem State.storeByte_readReg (a : Word) (b : Byte) (q : RegNo) : (s.storeByte a b).readReg q = s.readReg q := by simp only [State.storeByte, State.writeByte_readReg, State.turn_readReg]
@[simp] theorem State.storeByte_fit (a : Word) (b : Byte) (x : Word) : (s.storeByte a b).fit x = s.fit x := by simp only [State.storeByte, State.writeByte_fit, State.turn_fit]
@[simp] theorem State.storeByte_flagN (a : Word) (b : Byte) : (s.storeByte a b).flagN = s.flagN := by simp only [State.storeByte, State.writeByte_flagN, State.turn_flagN]
@[simp] theorem State.storeByte_flagV (a : Word) (b : Byte) : (s.storeByte a b).flagV = s.flagV := by simp only [State.storeByte, State.writeByte_flagV, State.turn_flagV]
@[simp] theorem State.storeByte_flagC (a : Word) (b : Byte) : (s.storeByte a b).flagC = s.flagC := by simp only [State.storeByte, State.writeByte_flagC, State.turn_flagC]
@[simp] theorem State.storeByte_flagZ (a : Word) (b : Byte) : (s.storeByte a b).flagZ = s.flagZ := by simp only [State.storeByte, State.writeByte_flagZ, State.turn_flagZ]
@[simp] theorem State.storeByte_flagI (a : Word) (b : Byte) : (s.storeByte a b).flagI = s.flagI := by simp only [State.storeByte, State.writeByte_flagI, State.turn_flagI]

@[simp] theorem State.storeChar_regs (a : Word) (c : Char16) : (s.storeChar a c).regs = s.regs := by simp only [State.storeChar, State.writeChar_regs, State.turn_regs]
@[simp] theorem State.storeChar_pc (a : Word) (c : Char16) : (s.storeChar a c).pc = s.pc := by simp only [State.storeChar, State.writeChar_pc, State.turn_pc]
@[simp] theorem State.storeChar_sr (a : Word) (c : Char16) : (s.storeChar a c).sr = s.sr := by simp only [State.storeChar, State.writeChar_sr, State.turn_sr]
@[simp] theorem State.storeChar_ilr (a : Word) (c : Char16) : (s.storeChar a c).ilr = s.ilr := by simp only [State.storeChar, State.writeChar_ilr, State.turn_ilr]
@[simp] theorem State.storeChar_cpfx (a : Word) (c : Char16) : (s.storeChar a c).cpfx = s.cpfx := by simp only [State.storeChar, State.writeChar_cpfx, State.turn_cpfx]
@[simp] theorem State.storeChar_stopped (a : Word) (c : Char16) : (s.storeChar a c).stopped = s.stopped := by simp only [State.storeChar, State.writeChar_stopped, State.turn_stopped]
@[simp] theorem State.storeChar_irq (a : Word) (c : Char16) : (s.storeChar a c).irq = s.irq := by simp only [State.storeChar, State.writeChar_irq, State.turn_irq]
@[simp] theorem State.storeChar_nmiPending (a : Word) (c : Char16) : (s.storeChar a c).nmiPending = s.nmiPending := by simp only [State.storeChar, State.writeChar_nmiPending, State.turn_nmiPending]
@[simp] theorem State.storeChar_nmiLine (a : Word) (c : Char16) : (s.storeChar a c).nmiLine = s.nmiLine := by simp only [State.storeChar, State.writeChar_nmiLine, State.turn_nmiLine]
@[simp] theorem State.storeChar_env (a : Word) (c : Char16) : (s.storeChar a c).env = s.env := by simp only [State.storeChar, State.writeChar_env, State.turn_env]
@[simp] theorem State.storeChar_bus (a : Word) (c : Char16) : (s.storeChar a c).bus = s.turn.bus := rfl
@[simp] theorem State.storeChar_stale (a : Word) (c : Char16) : (s.storeChar a c).stale = s.stale := by simp only [State.storeChar, State.writeChar_stale, State.turn_stale]
@[simp] theorem State.storeChar_free (a : Word) (c : Char16) : (s.storeChar a c).free = s.free := by simp only [State.storeChar, State.writeChar_free, State.turn_free]
@[simp] theorem State.storeChar_cfg (a : Word) (c : Char16) : (s.storeChar a c).cfg = s.cfg := by simp only [State.storeChar, State.writeChar_cfg, State.turn_cfg]
@[simp] theorem State.storeChar_readReg (a : Word) (c : Char16) (q : RegNo) : (s.storeChar a c).readReg q = s.readReg q := by simp only [State.storeChar, State.writeChar_readReg, State.turn_readReg]
@[simp] theorem State.storeChar_fit (a : Word) (c : Char16) (x : Word) : (s.storeChar a c).fit x = s.fit x := by simp only [State.storeChar, State.writeChar_fit, State.turn_fit]
@[simp] theorem State.storeChar_flagN (a : Word) (c : Char16) : (s.storeChar a c).flagN = s.flagN := by simp only [State.storeChar, State.writeChar_flagN, State.turn_flagN]
@[simp] theorem State.storeChar_flagV (a : Word) (c : Char16) : (s.storeChar a c).flagV = s.flagV := by simp only [State.storeChar, State.writeChar_flagV, State.turn_flagV]
@[simp] theorem State.storeChar_flagC (a : Word) (c : Char16) : (s.storeChar a c).flagC = s.flagC := by simp only [State.storeChar, State.writeChar_flagC, State.turn_flagC]
@[simp] theorem State.storeChar_flagZ (a : Word) (c : Char16) : (s.storeChar a c).flagZ = s.flagZ := by simp only [State.storeChar, State.writeChar_flagZ, State.turn_flagZ]
@[simp] theorem State.storeChar_flagI (a : Word) (c : Char16) : (s.storeChar a c).flagI = s.flagI := by simp only [State.storeChar, State.writeChar_flagI, State.turn_flagI]

@[simp] theorem State.storeWord_regs (a w : Word) : (s.storeWord a w).regs = s.regs := by simp only [State.storeWord, State.writeChar_regs, State.turn_regs]
@[simp] theorem State.storeWord_pc (a w : Word) : (s.storeWord a w).pc = s.pc := by simp only [State.storeWord, State.writeChar_pc, State.turn_pc]
@[simp] theorem State.storeWord_sr (a w : Word) : (s.storeWord a w).sr = s.sr := by simp only [State.storeWord, State.writeChar_sr, State.turn_sr]
@[simp] theorem State.storeWord_ilr (a w : Word) : (s.storeWord a w).ilr = s.ilr := by simp only [State.storeWord, State.writeChar_ilr, State.turn_ilr]
@[simp] theorem State.storeWord_cpfx (a w : Word) : (s.storeWord a w).cpfx = s.cpfx := by simp only [State.storeWord, State.writeChar_cpfx, State.turn_cpfx]
@[simp] theorem State.storeWord_stopped (a w : Word) : (s.storeWord a w).stopped = s.stopped := by simp only [State.storeWord, State.writeChar_stopped, State.turn_stopped]
@[simp] theorem State.storeWord_irq (a w : Word) : (s.storeWord a w).irq = s.irq := by simp only [State.storeWord, State.writeChar_irq, State.turn_irq]
@[simp] theorem State.storeWord_nmiPending (a w : Word) : (s.storeWord a w).nmiPending = s.nmiPending := by simp only [State.storeWord, State.writeChar_nmiPending, State.turn_nmiPending]
@[simp] theorem State.storeWord_nmiLine (a w : Word) : (s.storeWord a w).nmiLine = s.nmiLine := by simp only [State.storeWord, State.writeChar_nmiLine, State.turn_nmiLine]
@[simp] theorem State.storeWord_env (a w : Word) : (s.storeWord a w).env = s.env := by simp only [State.storeWord, State.writeChar_env, State.turn_env]
@[simp] theorem State.storeWord_stale (a w : Word) : (s.storeWord a w).stale = s.stale := by simp only [State.storeWord, State.writeChar_stale, State.turn_stale]
@[simp] theorem State.storeWord_free (a w : Word) : (s.storeWord a w).free = s.free := by simp only [State.storeWord, State.writeChar_free, State.turn_free]
@[simp] theorem State.storeWord_cfg (a w : Word) : (s.storeWord a w).cfg = s.cfg := by simp only [State.storeWord, State.writeChar_cfg, State.turn_cfg]
@[simp] theorem State.storeWord_readReg (a w : Word) (q : RegNo) : (s.storeWord a w).readReg q = s.readReg q := by simp only [State.storeWord, State.writeChar_readReg, State.turn_readReg]
@[simp] theorem State.storeWord_fit (a w : Word) (x : Word) : (s.storeWord a w).fit x = s.fit x := by simp only [State.storeWord, State.writeChar_fit, State.turn_fit]
@[simp] theorem State.storeWord_flagN (a w : Word) : (s.storeWord a w).flagN = s.flagN := by simp only [State.storeWord, State.writeChar_flagN, State.turn_flagN]
@[simp] theorem State.storeWord_flagV (a w : Word) : (s.storeWord a w).flagV = s.flagV := by simp only [State.storeWord, State.writeChar_flagV, State.turn_flagV]
@[simp] theorem State.storeWord_flagC (a w : Word) : (s.storeWord a w).flagC = s.flagC := by simp only [State.storeWord, State.writeChar_flagC, State.turn_flagC]
@[simp] theorem State.storeWord_flagZ (a w : Word) : (s.storeWord a w).flagZ = s.flagZ := by simp only [State.storeWord, State.writeChar_flagZ, State.turn_flagZ]
@[simp] theorem State.storeWord_flagI (a w : Word) : (s.storeWord a w).flagI = s.flagI := by simp only [State.storeWord, State.writeChar_flagI, State.turn_flagI]

@[simp] theorem State.sysCall_regs (v : BitVec 4) (ret : Word) : (s.sysCall v ret).regs = s.regs := rfl
@[simp] theorem State.sysCall_pc (v : BitVec 4) (ret : Word) : (s.sysCall v ret).pc = s.vectorAddr v := rfl
@[simp] theorem State.sysCall_sr (v : BitVec 4) (ret : Word) : (s.sysCall v ret).sr = srEnter s.sr := rfl
@[simp] theorem State.sysCall_ilr (v : BitVec 4) (ret : Word) : (s.sysCall v ret).ilr = ret := rfl
@[simp] theorem State.sysCall_cpfx (v : BitVec 4) (ret : Word) : (s.sysCall v ret).cpfx = s.cpfx := rfl
@[simp] theorem State.sysCall_stopped (v : BitVec 4) (ret : Word) : (s.sysCall v ret).stopped = s.stopped := rfl
@[simp] theorem State.sysCall_irq (v : BitVec 4) (ret : Word) : (s.sysCall v ret).irq = s.irq := rfl
@[simp] theorem State.sysCall_nmiPending (v : BitVec 4) (ret : Word) : (s.sysCall v ret).nmiPending = s.nmiPending := rfl
@[simp] theorem State.sysCall_mem (v : BitVec 4) (ret : Word) : (s.sysCall v ret).mem = s.mem := rfl
@[simp] theorem State.sysCall_nmiLine (v : BitVec 4) (ret : Word) : (s.sysCall v ret).nmiLine = s.nmiLine := rfl
@[simp] theorem State.sysCall_env (v : BitVec 4) (ret : Word) : (s.sysCall v ret).env = s.env := rfl
@[simp] theorem State.sysCall_bus (v : BitVec 4) (ret : Word) : (s.sysCall v ret).bus = s.bus := rfl
@[simp] theorem State.sysCall_stale (v : BitVec 4) (ret : Word) : (s.sysCall v ret).stale = s.stale := rfl
@[simp] theorem State.sysCall_free (v : BitVec 4) (ret : Word) : (s.sysCall v ret).free = s.free := rfl
@[simp] theorem State.sysCall_cfg (v : BitVec 4) (ret : Word) : (s.sysCall v ret).cfg = s.cfg := rfl
@[simp] theorem State.sysCall_readReg (v : BitVec 4) (ret : Word) (q : RegNo) : (s.sysCall v ret).readReg q = s.readReg q := rfl
@[simp] theorem State.sysCall_readByte (v : BitVec 4) (ret : Word) (p : Word) : (s.sysCall v ret).readByte p = s.readByte p := rfl
@[simp] theorem State.sysCall_fit (v : BitVec 4) (ret : Word) (x : Word) : (s.sysCall v ret).fit x = s.fit x := rfl

@[simp] theorem State.sysReturn_regs (d : Word) : (s.sysReturn d).regs = s.regs := rfl
@[simp] theorem State.sysReturn_pc (d : Word) : (s.sysReturn d).pc = s.fit (s.ilr + d) := rfl
@[simp] theorem State.sysReturn_sr (d : Word) : (s.sysReturn d).sr = srReturn s.sr := rfl
@[simp] theorem State.sysReturn_ilr (d : Word) : (s.sysReturn d).ilr = s.ilr := rfl
@[simp] theorem State.sysReturn_cpfx (d : Word) : (s.sysReturn d).cpfx = s.cpfx := rfl
@[simp] theorem State.sysReturn_stopped (d : Word) : (s.sysReturn d).stopped = s.stopped := rfl
@[simp] theorem State.sysReturn_irq (d : Word) : (s.sysReturn d).irq = s.irq := rfl
@[simp] theorem State.sysReturn_nmiPending (d : Word) : (s.sysReturn d).nmiPending = s.nmiPending := rfl
@[simp] theorem State.sysReturn_mem (d : Word) : (s.sysReturn d).mem = s.mem := rfl
@[simp] theorem State.sysReturn_nmiLine (d : Word) : (s.sysReturn d).nmiLine = s.nmiLine := rfl
@[simp] theorem State.sysReturn_env (d : Word) : (s.sysReturn d).env = s.env := rfl
@[simp] theorem State.sysReturn_bus (d : Word) : (s.sysReturn d).bus = s.bus := rfl
@[simp] theorem State.sysReturn_stale (d : Word) : (s.sysReturn d).stale = s.stale := rfl
@[simp] theorem State.sysReturn_free (d : Word) : (s.sysReturn d).free = s.free := rfl
@[simp] theorem State.sysReturn_cfg (d : Word) : (s.sysReturn d).cfg = s.cfg := rfl
@[simp] theorem State.sysReturn_readReg (d : Word) (q : RegNo) : (s.sysReturn d).readReg q = s.readReg q := rfl
@[simp] theorem State.sysReturn_readByte (d : Word) (p : Word) : (s.sysReturn d).readByte p = s.readByte p := rfl
@[simp] theorem State.sysReturn_fit (d : Word) (x : Word) : (s.sysReturn d).fit x = s.fit x := rfl

@[simp] theorem State.hardwareReset_regs : s.hardwareReset.regs = freeRegs s.cfg.xlen s.free := rfl
@[simp] theorem State.hardwareReset_pc : s.hardwareReset.pc = s.vectorAddr 0xF#4 := rfl
@[simp] theorem State.hardwareReset_ilr : s.hardwareReset.ilr = s.fit (Config.freeWord (s.free + 16)) := rfl
@[simp] theorem State.hardwareReset_cpfx : s.hardwareReset.cpfx = .none := rfl
@[simp] theorem State.hardwareReset_stopped : s.hardwareReset.stopped = false := rfl
@[simp] theorem State.hardwareReset_irq : s.hardwareReset.irq = s.irq := rfl
@[simp] theorem State.hardwareReset_nmiPending : s.hardwareReset.nmiPending = false := rfl
@[simp] theorem State.hardwareReset_mem : s.hardwareReset.mem = s.mem := rfl
@[simp] theorem State.hardwareReset_nmiLine : s.hardwareReset.nmiLine = s.nmiLine := rfl
@[simp] theorem State.hardwareReset_env : s.hardwareReset.env = s.env := rfl
@[simp] theorem State.hardwareReset_bus : s.hardwareReset.bus = s.bus := rfl
@[simp] theorem State.hardwareReset_stale : s.hardwareReset.stale = s.stale := rfl
@[simp] theorem State.hardwareReset_free : s.hardwareReset.free = s.free + 18 := rfl
@[simp] theorem State.hardwareReset_cfg : s.hardwareReset.cfg = s.cfg := rfl
@[simp] theorem State.hardwareReset_readByte (p : Word) : s.hardwareReset.readByte p = s.readByte p := rfl
@[simp] theorem State.hardwareReset_fit (x : Word) : s.hardwareReset.fit x = s.fit x := rfl

@[simp] theorem State.sample_regs : s.sample.regs = s.regs := rfl
@[simp] theorem State.sample_pc : s.sample.pc = s.pc := rfl
@[simp] theorem State.sample_sr : s.sample.sr = s.sr := rfl
@[simp] theorem State.sample_ilr : s.sample.ilr = s.ilr := rfl
@[simp] theorem State.sample_cpfx : s.sample.cpfx = s.cpfx := rfl
@[simp] theorem State.sample_stopped : s.sample.stopped = s.stopped := rfl
@[simp] theorem State.sample_irq : s.sample.irq = s.inputsNow.irq := rfl
@[simp] theorem State.sample_nmiPending : s.sample.nmiPending = s.nmiPendingAfter s.inputsNow.nmi := rfl
@[simp] theorem State.sample_mem : s.sample.mem = s.mem := rfl
@[simp] theorem State.sample_nmiLine : s.sample.nmiLine = s.inputsNow.nmi := rfl
@[simp] theorem State.sample_env : s.sample.env = s.env.tail := rfl
@[simp] theorem State.sample_bus : s.sample.bus = s.bus := rfl
@[simp] theorem State.sample_stale : s.sample.stale = s.stale := rfl
@[simp] theorem State.sample_free : s.sample.free = s.free := rfl
@[simp] theorem State.sample_cfg : s.sample.cfg = s.cfg := rfl
@[simp] theorem State.sample_readReg (q : RegNo) : s.sample.readReg q = s.readReg q := rfl
@[simp] theorem State.sample_readByte (p : Word) : s.sample.readByte p = s.readByte p := rfl
@[simp] theorem State.sample_fit (x : Word) : s.sample.fit x = s.fit x := rfl

@[simp] theorem State.takeNmi_regs : s.takeNmi.regs = s.regs := rfl
@[simp] theorem State.takeNmi_pc : s.takeNmi.pc = s.vectorAddr 0xE#4 := rfl
@[simp] theorem State.takeNmi_sr : s.takeNmi.sr = srEnter s.sr := rfl
@[simp] theorem State.takeNmi_ilr : s.takeNmi.ilr = s.pc := rfl
@[simp] theorem State.takeNmi_cpfx : s.takeNmi.cpfx = s.cpfx := rfl
@[simp] theorem State.takeNmi_stopped : s.takeNmi.stopped = s.stopped := rfl
@[simp] theorem State.takeNmi_irq : s.takeNmi.irq = s.irq := rfl
@[simp] theorem State.takeNmi_mem : s.takeNmi.mem = s.mem := rfl
@[simp] theorem State.takeNmi_nmiLine : s.takeNmi.nmiLine = s.nmiLine := rfl
@[simp] theorem State.takeNmi_env : s.takeNmi.env = s.env := rfl
@[simp] theorem State.takeNmi_bus : s.takeNmi.bus = s.bus := rfl
@[simp] theorem State.takeNmi_stale : s.takeNmi.stale = s.stale := rfl
@[simp] theorem State.takeNmi_free : s.takeNmi.free = s.free := rfl
@[simp] theorem State.takeNmi_cfg : s.takeNmi.cfg = s.cfg := rfl
@[simp] theorem State.takeNmi_readReg (q : RegNo) : s.takeNmi.readReg q = s.readReg q := rfl
@[simp] theorem State.takeNmi_readByte (p : Word) : s.takeNmi.readByte p = s.readByte p := rfl
@[simp] theorem State.takeNmi_fit (x : Word) : s.takeNmi.fit x = s.fit x := rfl

@[simp] theorem State.takeIrq_regs : s.takeIrq.regs = s.regs := rfl
@[simp] theorem State.takeIrq_pc : s.takeIrq.pc = s.vectorAddr 0xD#4 := rfl
@[simp] theorem State.takeIrq_sr : s.takeIrq.sr = srEnter s.sr := rfl
@[simp] theorem State.takeIrq_ilr : s.takeIrq.ilr = s.pc := rfl
@[simp] theorem State.takeIrq_cpfx : s.takeIrq.cpfx = s.cpfx := rfl
@[simp] theorem State.takeIrq_stopped : s.takeIrq.stopped = s.stopped := rfl
@[simp] theorem State.takeIrq_irq : s.takeIrq.irq = s.irq := rfl
@[simp] theorem State.takeIrq_nmiPending : s.takeIrq.nmiPending = s.nmiPending := rfl
@[simp] theorem State.takeIrq_mem : s.takeIrq.mem = s.mem := rfl
@[simp] theorem State.takeIrq_nmiLine : s.takeIrq.nmiLine = s.nmiLine := rfl
@[simp] theorem State.takeIrq_env : s.takeIrq.env = s.env := rfl
@[simp] theorem State.takeIrq_bus : s.takeIrq.bus = s.bus := rfl
@[simp] theorem State.takeIrq_stale : s.takeIrq.stale = s.stale := rfl
@[simp] theorem State.takeIrq_free : s.takeIrq.free = s.free := rfl
@[simp] theorem State.takeIrq_cfg : s.takeIrq.cfg = s.cfg := rfl
@[simp] theorem State.takeIrq_readReg (q : RegNo) : s.takeIrq.readReg q = s.readReg q := rfl
@[simp] theorem State.takeIrq_readByte (p : Word) : s.takeIrq.readByte p = s.readByte p := rfl
@[simp] theorem State.takeIrq_fit (x : Word) : s.takeIrq.fit x = s.fit x := rfl

@[simp] theorem State.fetched_regs : s.fetched.regs = s.regs := rfl
@[simp] theorem State.fetched_pc : s.fetched.pc = s.fit (s.pc + 2) := rfl
@[simp] theorem State.fetched_sr : s.fetched.sr = s.sr := rfl
@[simp] theorem State.fetched_ilr : s.fetched.ilr = s.ilr := rfl
@[simp] theorem State.fetched_cpfx : s.fetched.cpfx = s.cpfx := rfl
@[simp] theorem State.fetched_stopped : s.fetched.stopped = s.stopped := rfl
@[simp] theorem State.fetched_irq : s.fetched.irq = s.irq := rfl
@[simp] theorem State.fetched_nmiPending : s.fetched.nmiPending = s.nmiPending := rfl
@[simp] theorem State.fetched_mem : s.fetched.mem = s.turn.mem := rfl
@[simp] theorem State.fetched_nmiLine : s.fetched.nmiLine = s.nmiLine := rfl
@[simp] theorem State.fetched_env : s.fetched.env = s.env := rfl
@[simp] theorem State.fetched_bus : s.fetched.bus = s.turn.bus := rfl
@[simp] theorem State.fetched_stale : s.fetched.stale = s.stale := rfl
@[simp] theorem State.fetched_free : s.fetched.free = s.free := rfl
@[simp] theorem State.fetched_cfg : s.fetched.cfg = s.cfg := rfl
@[simp] theorem State.fetched_readReg (q : RegNo) : s.fetched.readReg q = s.readReg q := rfl
@[simp] theorem State.fetched_fit (x : Word) : s.fetched.fit x = s.fit x := rfl

end Sys2Proof.Machine
end

