-- ==== Sys2Proof/Laws/Ops.lean ====
section
/-! SUPPORT. What each shared operation can do, said once: register reads and writes, the two gates
every meaning passes, the refusals of an access, the bus, the special registers, the frame of a
step. -/

namespace Sys2Proof.Machine

/-! ## Width -/

@[simp] theorem Xlen.fit_w32 (v : Word) : Xlen.fit .w32 v = v := rfl

theorem Xlen.fit_fit (x : Xlen) (v : Word) : x.fit (x.fit v) = x.fit v := by
  cases x
  · rfl
  · simp [Xlen.fit, BitVec.and_assoc]

@[simp] theorem State.fit_fit (s : State) (v : Word) : s.fit (s.fit v) = s.fit v :=
  Xlen.fit_fit _ v

@[simp] theorem Xlen.fit_zero (x : Xlen) : x.fit 0x00000000#32 = 0x00000000#32 := by
  cases x <;> decide

/-- A value cut to W bits is the value modulo 2^W. -/
theorem Xlen.fit_toNat (x : Xlen) (v : Word) : (x.fit v).toNat = v.toNat % 2 ^ x.bits := by
  cases x
  · exact (Nat.mod_eq_of_lt v.isLt).symm
  · rw [Xlen.fit, BitVec.toNat_and]
    exact Nat.and_two_pow_sub_one_eq_mod v.toNat 16

@[simp] theorem State.fit_zero (s : State) : s.fit 0x00000000#32 = 0x00000000#32 :=
  Xlen.fit_zero _

/-- One bit of a value cut to W bits. -/
theorem Xlen.fit_getLsbD (x : Xlen) (v : Word) (i : Nat) :
    (x.fit v).getLsbD i = (v.getLsbD i && decide (i < x.bits)) := by
  rw [BitVec.getLsbD, Xlen.fit_toNat, Nat.testBit_mod_two_pow, BitVec.getLsbD, Bool.and_comm]

/-- A value fits in W bits exactly when its bits from W on are zero. -/
theorem Xlen.fit_eq_self (x : Xlen) (v : Word) :
    x.fit v = v ↔ ∀ i, x.bits ≤ i → v.getLsbD i = false := by
  constructor
  · intro h i hi
    rw [← h, Xlen.fit_getLsbD]
    simp [Nat.not_lt.mpr hi]
  · intro h
    apply BitVec.eq_of_getLsbD_eq
    intro i _
    rw [Xlen.fit_getLsbD]
    by_cases hi : i < x.bits
    · simp [hi]
    · simp [h i (Nat.not_lt.mp hi)]

theorem Xlen.fit_and (x : Xlen) {a : Word} (b : Word) (ha : x.fit a = a) :
    x.fit (a &&& b) = a &&& b :=
  (Xlen.fit_eq_self x _).mpr fun i hi => by simp [(Xlen.fit_eq_self x a).mp ha i hi]

theorem Xlen.fit_or (x : Xlen) {a b : Word} (ha : x.fit a = a) (hb : x.fit b = b) :
    x.fit (a ||| b) = a ||| b :=
  (Xlen.fit_eq_self x _).mpr fun i hi => by
    simp [(Xlen.fit_eq_self x a).mp ha i hi, (Xlen.fit_eq_self x b).mp hb i hi]

theorem Xlen.fit_xor (x : Xlen) {a b : Word} (ha : x.fit a = a) (hb : x.fit b = b) :
    x.fit (a ^^^ b) = a ^^^ b :=
  (Xlen.fit_eq_self x _).mpr fun i hi => by
    simp [(Xlen.fit_eq_self x a).mp ha i hi, (Xlen.fit_eq_self x b).mp hb i hi]

/-! ## Registers -/

@[simp] theorem State.readReg_zero (s : State) : s.readReg 0x0#4 = 0x00000000#32 := rfl

/-- A register read after a register write. -/
theorem State.readReg_writeReg (s : State) (i q : RegNo) (v : Word) :
    (s.writeReg i v).readReg q = if q = i ∧ q ≠ 0x0#4 then s.fit v else s.readReg q := by
  unfold State.readReg State.writeReg
  by_cases hq : q = 0x0#4
  · simp [hq]
  by_cases hi : i = 0x0#4
  · have : ¬ q = i := fun h => hq (h.trans hi)
    simp [hq, hi]
  · have hne : (i.toNat = q.toNat) ↔ q = i := by rw [BitVec.toNat_inj]; exact eq_comm
    simp only [hq, hi, if_false, Vector.getElem_set, hne, ne_eq, not_false_eq_true, and_true]

/-- Writing r0 changes nothing. -/
theorem State.writeReg_zero (s : State) (v : Word) : s.writeReg 0x0#4 v = s := rfl

/-- A register behind a hardware reset: zero for r0, else a free value cut to W bits
(70_reset_and_hazards.md R310). -/
theorem State.readReg_hardwareReset (s : State) (q : RegNo) :
    s.hardwareReset.readReg q =
      if q = 0x0#4 then 0x00000000#32 else s.fit (Config.freeWord (s.free + q.toNat)) := by
  unfold State.readReg
  split
  · rfl
  · next hq =>
    have h : q.toNat ≠ 0 := fun h => hq (BitVec.eq_of_toNat_eq h)
    rw [State.hardwareReset_regs, freeRegs, Vector.getElem_ofFn]
    simp only [h, if_false, State.fit]

/-! ## The two gates -/

/-- An instruction that takes a constant completes exactly when a constant is there and its body
completes. -/
theorem State.withConstant_next {s t : State} {raw : BitVec 4} {k : Word → State → Out} :
    s.withConstant raw k = .next t ↔ ∃ c, s.constant raw = some c ∧ k c s.clearCpfx = .next t := by
  unfold State.withConstant
  split
  · next c h => simp [h]
  · next h => simp [h]

theorem State.withConstant_of {s : State} {raw : BitVec 4} {c : Word} (h : s.constant raw = some c)
    (k : Word → State → Out) : s.withConstant raw k = k c s.clearCpfx := by
  simp [State.withConstant, h]

theorem State.withConstant_eq {s : State} {raw : BitVec 4} {c : Word} {k : Word → State → Out}
    {out : Out} (h : s.constant raw = some c) (hk : k c s.clearCpfx = out) :
    s.withConstant raw k = out :=
  (State.withConstant_of h k).trans hk

/-- An instruction that takes no constant completes exactly when no prefix is pending and its body
completes. -/
theorem State.withoutPrefix_next {s t : State} {k : Out} :
    s.withoutPrefix k = .next t ↔ s.cpfx = .none ∧ k = .next t := by
  unfold State.withoutPrefix
  split <;> simp_all

theorem State.withoutPrefix_of {s : State} (h : s.cpfx = .none) (k : Out) :
    s.withoutPrefix k = k := by
  simp [State.withoutPrefix, h]

theorem State.withoutPrefix_ready {s : State} {u : BitVec 28} (h : s.cpfx = .ready u) (k : Out) :
    s.withoutPrefix k = .refused .prefixedNonConstant := by
  simp [State.withoutPrefix, h]

/-- CP completes exactly when no prefix is pending and its body completes. -/
theorem withoutPriorPrefix_next {s t : State} {k : Out} :
    withoutPriorPrefix s k = .next t ↔ s.cpfx = .none ∧ k = .next t := by
  unfold withoutPriorPrefix
  split <;> simp_all

/-- There is a constant unless a constant character is due. -/
theorem State.constant_isSome {s : State} {raw : BitVec 4} {c : Word} :
    s.constant raw = some c ↔
      (s.cpfx = .none ∧ c = s.fit (BitVec.ofInt 32 (c4dec raw))) ∨
      ∃ u, s.cpfx = .ready u ∧ c = s.fit (u ++ raw) := by
  unfold State.constant
  cases hc : s.cpfx <;> simp [eq_comm]

/-- A constant fits in W bits. -/
theorem State.constant_fit {s : State} {raw : BitVec 4} {c : Word} (h : s.constant raw = some c) :
    s.fit c = c := by
  rcases State.constant_isSome.mp h with ⟨-, rfl⟩ | ⟨u, -, rfl⟩ <;> exact s.fit_fit _

/-! ## Accesses -/

/-- A load is let through exactly when it is aligned and its bytes are populated. -/
theorem State.loadRefusal_none {s : State} {a : Word} {n : Nat} :
    s.loadRefusal a n = none ↔
      (n = 1 ∨ isOdd a = false) ∧ ∀ k < n, s.populated (s.offset a k) = true := by
  unfold State.loadRefusal State.span
  by_cases h1 : n = 1 <;> by_cases h2 : isOdd a = true <;>
    simp [h1, h2]

/-- A store is let through exactly when it is aligned and its bytes are populated with RAM. -/
theorem State.storeRefusal_none {s : State} {a : Word} {n : Nat} :
    s.storeRefusal a n = none ↔
      (n = 1 ∨ isOdd a = false) ∧ (∀ k < n, s.populated (s.offset a k) = true) ∧
        ∀ k < n, s.writable (s.offset a k) = true := by
  unfold State.storeRefusal State.span
  simp only [List.all_map, List.all_eq_true, List.mem_range, Function.comp_apply]
  rw [← Bool.not_eq_true]
  split
  · next h => exact ⟨nofun, fun g => absurd h (by rcases g.1 with g | g <;> simp [g])⟩
  · next h =>
    have h' : n = 1 ∨ ¬ isOdd a = true := by by_contra hc; push Not at hc; exact h hc
    split
    · next h3 =>
      split
      · next h4 => exact ⟨fun _ => ⟨h', h3, h4⟩, fun _ => rfl⟩
      · next h4 => exact ⟨nofun, fun g => absurd g.2.2 h4⟩
    · next h3 => exact ⟨nofun, fun g => absurd g.2.1 h3⟩

/-- Without another bus master its turn changes nothing. -/
theorem State.turn_eq {s : State} (h : s.cfg.externalWriters = false) : s.turn = s := by
  simp [State.turn, h]

/-! ## The special registers -/

@[simp] theorem State.readSpr_sr (s : State) :
    s.readSpr .sr = .ok (zextTo s.cfg.xlen s.sr) := rfl
@[simp] theorem State.readSpr_ilr (s : State) : s.readSpr .ilr = .ok s.ilr := rfl
theorem State.readSpr_ver {s : State} (h : s.cfg.xlen = .w32) :
    s.readSpr .ver = .ok Config.verValue := by simp [State.readSpr, h]

/-! ## The frame of a step -/

/-- What a next state of a step comes from: a task that is done, or an instruction that completes. -/
theorem step_next {s t : State} :
    step s = .next t ↔ s.task = .done t ∨ ∃ i u, s.task = .run i u ∧ exec i u = .next t := by
  unfold step
  split <;> simp_all

/-- The frame of a step has five cases (00_scope.md R14). -/
theorem State.taskOf_cases (s : State) (now : Inputs) :
    (now.rst = true ∧ s.taskOf now = .done s.hardwareReset) ∨
    (now.rst = false ∧ s.stopped = true ∧ s.taskOf now = .done (s.stoppedStep now.go)) ∨
    (now.rst = false ∧ s.stopped = false ∧
      ∃ t, s.interrupted = some t ∧ s.taskOf now = .done t) ∨
    (now.rst = false ∧ s.stopped = false ∧ s.interrupted = none ∧
      s.taskOf now = s.fetchTask) := by
  unfold State.taskOf
  cases now.rst <;> cases s.stopped <;> simp
  cases s.interrupted <;> simp

/-- An interrupt is taken only with no prefix pending: the NMI when it is pending, else the IRQ when
its input is high and I is clear (60_exceptions.md R281 to R285). -/
theorem State.interrupted_some {s t : State} :
    s.interrupted = some t ↔ s.cpfx = .none ∧
      ((s.nmiPending = true ∧ t = s.takeNmi) ∨
        (s.nmiPending = false ∧ s.irq = true ∧ s.flagI = false ∧ t = s.takeIrq)) := by
  unfold State.interrupted
  by_cases h : s.cpfx = .none <;> cases s.nmiPending <;> cases s.irq <;> cases s.flagI <;>
    simp [h, eq_comm]

/-- With an edge trigger the NMI pending bit is set by a rising edge and stays set (60_exceptions.md
R283). -/
theorem State.nmiPendingAfter_edge {s : State} (h : s.cfg.nmiTrigger = .edge) (nmi : Bool) :
    s.nmiPendingAfter nmi = true ↔ s.nmiPending = true ∨ (nmi = true ∧ s.nmiLine = false) := by
  simp [State.nmiPendingAfter, h]

/-- With a level trigger the NMI pending bit is the level (60_exceptions.md R283). -/
theorem State.nmiPendingAfter_level {s : State} (h : s.cfg.nmiTrigger = .level) (nmi : Bool) :
    s.nmiPendingAfter nmi = nmi := by
  simp [State.nmiPendingAfter, h]

/-- Taking a pending NMI leaves it pending under a level trigger alone (log entry 44). -/
theorem State.takeNmi_nmiPending {s : State} (h : s.nmiPending = true) :
    s.takeNmi.nmiPending = decide (s.cfg.nmiTrigger = .level) := by
  cases hc : s.cfg.nmiTrigger <;> simp [State.takeNmi, hc, h]

/-- A fetch is let through exactly when the pc is even, nothing is stale and both bytes are
populated. -/
theorem State.fetchRefusal_none {s : State} :
    s.fetchRefusal = none ↔ isOdd s.pc = false ∧ s.stale = false ∧
      ∀ k < 2, s.populated (s.offset s.pc k) = true := by
  unfold State.fetchRefusal State.span
  cases isOdd s.pc <;> cases s.stale <;> simp

/-- What a fetch that is let through leads to: constant data, an instruction, or a reserved
encoding. -/
theorem State.fetchTask_cases {s : State} (h : s.fetchRefusal = none) :
    (∃ c12, s.cpfx = .half c12 ∧
      s.fetchTask = .done { s.fetched with cpfx := .ready (s.fetchedChar ++ c12) }) ∨
    ((∀ c12, s.cpfx ≠ .half c12) ∧
      ((∃ i, decodeChar s.cfg s.fetchedChar = .ok i ∧ s.fetchTask = .run i s.fetched) ∨
        ∃ e, decodeChar s.cfg s.fetchedChar = .error e ∧
          s.fetchTask = .stop (.reservedEncoding e))) := by
  unfold State.fetchTask
  rw [h]
  cases hc : s.cpfx <;> cases hd : decodeChar s.cfg s.fetchedChar <;> simp

end Sys2Proof.Machine
end

