-- ==== Sys2Proof/Laws/Exec.lean ====
section
/-! SUPPORT. What each instruction answers when it completes, one equation for each constructor of
`Instr`: the instructions that take a constant, given the constant; the others, given that no prefix
is pending. -/

namespace Sys2Proof.Machine

variable {s : State}

theorem exec_addI_eq {rd rs : RegNo} {n : BitVec 4} {imm : Word} (h : s.constant n = some imm) :
    exec (.addI rd rs n) s = .next (s.clearCpfx.writeAlu rd
      (s.add (s.readReg rs) imm false)) :=
  by
  simp only [exec, execAddI, addConstant]
  exact State.withConstant_eq h rfl

theorem exec_lea_eq {rd rs : RegNo} {n : BitVec 4} {imm : Word} (h : s.constant n = some imm) :
    exec (.lea rd rs n) s = .next (s.clearCpfx.writeAlu rd
      (s.add (s.readReg rs) imm false)) :=
  by
  simp only [exec, execLea, addConstant]
  exact State.withConstant_eq h rfl

theorem exec_subI_eq {rd rs : RegNo} {n : BitVec 4} {imm : Word} (h : s.constant n = some imm) :
    exec (.subI rd rs n) s = .next (s.clearCpfx.writeAlu rd
      (s.add (s.readReg rs) imm false)) :=
  by
  simp only [exec, execSubI, addConstant]
  exact State.withConstant_eq h rfl

theorem exec_cmpI_eq {rs : RegNo} {n : BitVec 4} {imm : Word} (h : s.constant n = some imm) :
    exec (.cmpI rs n) s = .next (s.clearCpfx.writeAlu 0x0#4
      (s.add (s.readReg rs) imm false)) :=
  by
  simp only [exec, execCmpI, addConstant]
  exact State.withConstant_eq h rfl

theorem exec_adcI_eq {rd : RegNo} {n : BitVec 4} {imm : Word} (h : s.constant n = some imm) :
    exec (.adcI rd n) s = .next (s.clearCpfx.writeAlu rd
      (s.add (s.readReg rd) imm s.flagC)) :=
  by
  simp only [exec, execAdcI]
  exact State.withConstant_eq h rfl

theorem exec_sbcI_eq {rd : RegNo} {n : BitVec 4} {imm : Word} (h : s.constant n = some imm) :
    exec (.sbcI rd n) s = .next (s.clearCpfx.writeAlu rd
      (s.sub (s.readReg rd) imm s.borrowIn)) :=
  by
  simp only [exec, execSbcI]
  exact State.withConstant_eq h rfl

theorem exec_subrI_eq {rd : RegNo} {n : BitVec 4} {imm : Word} (h : s.constant n = some imm) :
    exec (.subrI rd n) s = .next (s.clearCpfx.writeAlu rd
      (s.sub imm (s.readReg rd) false)) :=
  by
  simp only [exec, execSubrI, reverseSubtract]
  exact State.withConstant_eq h rfl

theorem exec_negR_eq {rd : RegNo} {imm : Word} (h : s.constant 0x0#4 = some imm) :
    exec (.negR rd) s = .next (s.clearCpfx.writeAlu rd
      (s.sub imm (s.readReg rd) false)) :=
  by
  simp only [exec, execNegR, reverseSubtract]
  exact State.withConstant_eq h rfl

theorem exec_andI_eq {rd : RegNo} {n : BitVec 4} {imm : Word} (h : s.constant n = some imm) :
    exec (.andI rd n) s = .next (s.clearCpfx.writeNZ rd (s.readReg rd &&& imm)) :=
  by
  simp only [exec, execAndI]
  exact State.withConstant_eq h rfl

theorem exec_orI_eq {rd : RegNo} {n : BitVec 4} {imm : Word} (h : s.constant n = some imm) :
    exec (.orI rd n) s = .next (s.clearCpfx.writeNZ rd (s.readReg rd ||| imm)) :=
  by
  simp only [exec, execOrI]
  exact State.withConstant_eq h rfl

theorem exec_xorI_eq {rd : RegNo} {n : BitVec 4} {imm : Word} (h : s.constant n = some imm) :
    exec (.xorI rd n) s = .next (s.clearCpfx.writeNZ rd (s.readReg rd ^^^ imm)) :=
  by
  simp only [exec, execXorI, xorConstant]
  exact State.withConstant_eq h rfl

theorem exec_notR_eq {rd : RegNo} {imm : Word} (h : s.constant 0xF#4 = some imm) :
    exec (.notR rd) s = .next (s.clearCpfx.writeNZ rd (s.readReg rd ^^^ imm)) :=
  by
  simp only [exec, execNotR, xorConstant]
  exact State.withConstant_eq h rfl

theorem exec_jal_eq {rd rs : RegNo} {n : BitVec 4} {imm : Word} (h : s.constant n = some imm) :
    exec (.jal rd rs n) s = .next ((s.clearCpfx.writeReg rd s.pc).jump (s.ea rs imm)) :=
  by
  simp only [exec, execJal, jumpAndLink]
  exact State.withConstant_eq h rfl

theorem exec_jmp_eq {rs : RegNo} {n : BitVec 4} {imm : Word} (h : s.constant n = some imm) :
    exec (.jmp rs n) s = .next (s.clearCpfx.jump (s.ea rs imm)) :=
  by
  simp only [exec, execJmp, jumpAndLink]
  exact State.withConstant_eq h rfl

theorem exec_callR_eq {rs : RegNo} {n : BitVec 4} {imm : Word} (h : s.constant n = some imm) :
    exec (.callR rs n) s = .next ((s.clearCpfx.writeReg 0xF#4 s.pc).jump (s.ea rs imm)) :=
  by
  simp only [exec, execCallR, jumpAndLink]
  exact State.withConstant_eq h rfl

theorem exec_ret_eq {imm : Word} (h : s.constant 0x0#4 = some imm) :
    exec .ret s = .next (s.clearCpfx.jump (s.ea 0xF#4 imm)) :=
  by
  simp only [exec, execRet, jumpAndLink]
  exact State.withConstant_eq h rfl

theorem exec_addR_eq {rd rs : RegNo} (h : s.cpfx = .none) :
    exec (.addR rd rs) s = .next (s.writeAlu rd (s.add (s.readReg rd) (s.readReg rs) false)) :=
  State.withoutPrefix_of h _

theorem exec_adcR_eq {rd rs : RegNo} (h : s.cpfx = .none) :
    exec (.adcR rd rs) s = .next (s.writeAlu rd (s.add (s.readReg rd) (s.readReg rs) s.flagC)) :=
  State.withoutPrefix_of h _

theorem exec_subR_eq {rd rs : RegNo} (h : s.cpfx = .none) :
    exec (.subR rd rs) s = .next (s.writeAlu rd (s.sub (s.readReg rd) (s.readReg rs) false)) :=
  State.withoutPrefix_of h _

theorem exec_sbcR_eq {rd rs : RegNo} (h : s.cpfx = .none) :
    exec (.sbcR rd rs) s = .next (s.writeAlu rd (s.sub (s.readReg rd) (s.readReg rs) s.borrowIn)) :=
  State.withoutPrefix_of h _

theorem exec_cmpR_eq {rd rs : RegNo} (h : s.cpfx = .none) :
    exec (.cmpR rd rs) s = .next (s.setNVCZ (s.sub (s.readReg rd) (s.readReg rs) false)) :=
  State.withoutPrefix_of h _

theorem exec_andR_eq {rd rs : RegNo} (h : s.cpfx = .none) :
    exec (.andR rd rs) s = .next (s.writeNZ rd (s.readReg rd &&& s.readReg rs)) :=
  State.withoutPrefix_of h _

theorem exec_orR_eq {rd rs : RegNo} (h : s.cpfx = .none) :
    exec (.orR rd rs) s = .next (s.writeNZ rd (s.readReg rd ||| s.readReg rs)) :=
  State.withoutPrefix_of h _

theorem exec_xorR_eq {rd rs : RegNo} (h : s.cpfx = .none) :
    exec (.xorR rd rs) s = .next (s.writeNZ rd (s.readReg rd ^^^ s.readReg rs)) :=
  State.withoutPrefix_of h _

theorem exec_zxb_eq {rd : RegNo} (h : s.cpfx = .none) :
    exec (.zxb rd) s = .next (s.writeNZ rd
      (zextTo s.cfg.xlen ((s.readReg rd).extractLsb' 0 8))) :=
  State.withoutPrefix_of h _

theorem exec_zxc_eq {rd : RegNo} (h : s.cpfx = .none) :
    exec (.zxc rd) s = .next (s.writeNZ rd
      (zextTo s.cfg.xlen ((s.readReg rd).extractLsb' 0 16))) :=
  State.withoutPrefix_of h _

theorem exec_sxb_eq {rd : RegNo} (h : s.cpfx = .none) :
    exec (.sxb rd) s = .next (s.writeNZ rd
      (sextTo s.cfg.xlen ((s.readReg rd).extractLsb' 0 8))) :=
  State.withoutPrefix_of h _

theorem exec_sxc_eq {rd : RegNo} (h : s.cpfx = .none) :
    exec (.sxc rd) s = .next (s.writeNZ rd
      (sextTo s.cfg.xlen ((s.readReg rd).extractLsb' 0 16))) :=
  State.withoutPrefix_of h _

theorem exec_shl_eq {rd : RegNo} (h : s.cpfx = .none) :
    exec (.shl rd) s = .next (s.writeNCZ rd
      (shiftLeftIn s.cfg.xlen (s.readReg rd) false) (msbOf s.cfg.xlen (s.readReg rd))) :=
  State.withoutPrefix_of h _

theorem exec_shr_eq {rd : RegNo} (h : s.cpfx = .none) :
    exec (.shr rd) s = .next (s.writeNCZ rd
      (shiftRightIn s.cfg.xlen (s.readReg rd) false) ((s.readReg rd).getLsbD 0)) :=
  State.withoutPrefix_of h _

theorem exec_asr_eq {rd : RegNo} (h : s.cpfx = .none) :
    exec (.asr rd) s = .next (s.writeNCZ rd
      (shiftRightIn s.cfg.xlen (s.readReg rd) (msbOf s.cfg.xlen (s.readReg rd)))
      ((s.readReg rd).getLsbD 0)) :=
  State.withoutPrefix_of h _

theorem exec_rol_eq {rd : RegNo} (h : s.cpfx = .none) :
    exec (.rol rd) s = .next (s.writeNCZ rd
      (shiftLeftIn s.cfg.xlen (s.readReg rd)
        (if s.cfg.rotateThroughCarry then s.flagC else msbOf s.cfg.xlen (s.readReg rd)))
      (msbOf s.cfg.xlen (s.readReg rd))) :=
  State.withoutPrefix_of h _

theorem exec_ror_eq {rd : RegNo} (h : s.cpfx = .none) :
    exec (.ror rd) s = .next (s.writeNCZ rd
      (shiftRightIn s.cfg.xlen (s.readReg rd)
        (if s.cfg.rotateThroughCarry then s.flagC else (s.readReg rd).getLsbD 0))
      ((s.readReg rd).getLsbD 0)) :=
  State.withoutPrefix_of h _

theorem exec_blt_eq {d : BitVec 9} (h : s.cpfx = .none) :
    exec (.blt d) s = .next (s.branchIf s.testLT d) :=
  State.withoutPrefix_of h _

theorem exec_bge_eq {d : BitVec 9} (h : s.cpfx = .none) :
    exec (.bge d) s = .next (s.branchIf s.testGE d) :=
  State.withoutPrefix_of h _

theorem exec_ble_eq {d : BitVec 9} (h : s.cpfx = .none) :
    exec (.ble d) s = .next (s.branchIf s.testLE d) :=
  State.withoutPrefix_of h _

theorem exec_bgt_eq {d : BitVec 9} (h : s.cpfx = .none) :
    exec (.bgt d) s = .next (s.branchIf s.testGT d) :=
  State.withoutPrefix_of h _

theorem exec_bltu_eq {d : BitVec 9} (h : s.cpfx = .none) :
    exec (.bltu d) s = .next (s.branchIf s.testLTU d) :=
  State.withoutPrefix_of h _

theorem exec_bgeu_eq {d : BitVec 9} (h : s.cpfx = .none) :
    exec (.bgeu d) s = .next (s.branchIf s.testGEU d) :=
  State.withoutPrefix_of h _

theorem exec_bleu_eq {d : BitVec 9} (h : s.cpfx = .none) :
    exec (.bleu d) s = .next (s.branchIf s.testLEU d) :=
  State.withoutPrefix_of h _

theorem exec_bgtu_eq {d : BitVec 9} (h : s.cpfx = .none) :
    exec (.bgtu d) s = .next (s.branchIf s.testGTU d) :=
  State.withoutPrefix_of h _

theorem exec_beq_eq {d : BitVec 9} (h : s.cpfx = .none) :
    exec (.beq d) s = .next (s.branchIf s.testEQ d) :=
  State.withoutPrefix_of h _

theorem exec_bne_eq {d : BitVec 9} (h : s.cpfx = .none) :
    exec (.bne d) s = .next (s.branchIf s.testNE d) :=
  State.withoutPrefix_of h _

theorem exec_bmi_eq {d : BitVec 9} (h : s.cpfx = .none) :
    exec (.bmi d) s = .next (s.branchIf s.testMI d) :=
  State.withoutPrefix_of h _

theorem exec_bpl_eq {d : BitVec 9} (h : s.cpfx = .none) :
    exec (.bpl d) s = .next (s.branchIf s.testPL d) :=
  State.withoutPrefix_of h _

theorem exec_bra_eq {d : BitVec 9} (h : s.cpfx = .none) :
    exec (.bra d) s = .next (s.branchIf true d) :=
  State.withoutPrefix_of h _

theorem exec_bsr_eq {d : BitVec 9} (h : s.cpfx = .none) :
    exec (.bsr d) s = .next ((s.writeReg 0xF#4 s.pc).jump (s.branchTarget d)) :=
  State.withoutPrefix_of h _

theorem exec_callPc_eq {d : BitVec 9} (h : s.cpfx = .none) :
    exec (.callPc d) s = .next ((s.writeReg 0xF#4 s.pc).jump (s.branchTarget d)) :=
  State.withoutPrefix_of h _

theorem exec_brk_eq (h : s.cpfx = .none) :
    exec .brk s = .next (s.sysCall 0x0#4 s.pc) :=
  State.withoutPrefix_of h _

theorem exec_sys_eq (h : s.cpfx = .none) :
    exec .sys s = .next (s.sysCall 0x1#4 s.pc) :=
  State.withoutPrefix_of h _

theorem exec_trc_eq (h : s.cpfx = .none) :
    exec .trc s = .next (s.sysCall 0xB#4 s.pc) :=
  State.withoutPrefix_of h _

theorem exec_dbg_eq (h : s.cpfx = .none) :
    exec .dbg s = .next (s.sysCall 0xC#4 s.pc) :=
  State.withoutPrefix_of h _

theorem exec_nmi_eq (h : s.cpfx = .none) :
    exec .nmi s = .next (s.sysCall 0xE#4 s.pc) :=
  State.withoutPrefix_of h _

theorem exec_reset_eq (h : s.cpfx = .none) :
    exec .reset s = .next (s.sysCall 0xF#4 s.pc) :=
  State.withoutPrefix_of h _

theorem exec_irq_eq (h : s.cpfx = .none) :
    exec .irq s = .next (if s.flagI then s else s.sysCall 0xD#4 s.pc) :=
  State.withoutPrefix_of h _

theorem exec_ei_eq (h : s.cpfx = .none) :
    exec .ei s = .next (s.setI false) :=
  State.withoutPrefix_of h _

theorem exec_di_eq (h : s.cpfx = .none) :
    exec .di s = .next (s.setI true) :=
  State.withoutPrefix_of h _

theorem exec_ri_eq (h : s.cpfx = .none) :
    exec .ri s = .next (s.setI (s.sr.getLsbD 15)) :=
  State.withoutPrefix_of h _

theorem exec_rti_eq {n : BitVec 4} (h : s.cpfx = .none) :
    exec (.rti n) s = .next (s.sysReturn (BitVec.ofInt 32 (c4dec n))) :=
  State.withoutPrefix_of h _

theorem exec_nop_eq (h : s.cpfx = .none) :
    exec .nop s = .next (s) :=
  State.withoutPrefix_of h _

theorem exec_endMark_eq (h : s.cpfx = .none) :
    exec .endMark s = .next (s) :=
  State.withoutPrefix_of h _

theorem exec_stop_eq (h : s.cpfx = .none) :
    exec .stop s = .next ({ s with stopped := true }) :=
  State.withoutPrefix_of h _

theorem exec_trs_eq {rd : RegNo} {spr : Spr} (h : s.cpfx = .none) :
    exec (.trs rd spr) s = .next (s.writeSpr spr (s.readReg rd)) :=
  State.withoutPrefix_of h _

theorem exec_tsr_eq {rd : RegNo} {spr : Spr} {v : Word} (h : s.cpfx = .none)
    (hv : s.readSpr spr = .ok v) : exec (.tsr rd spr) s = .next (s.writeReg rd v) :=
  (State.withoutPrefix_of h _).trans (by rw [hv])

theorem exec_callS_eq {a : BitVec 12} (h : s.cpfx = .none) (he : s.atBankEdge = false) :
    exec (.callS a) s = .next ((s.writeReg 0xF#4 s.pc).jump (s.bankTarget a)) :=
  (State.withoutPrefix_of h _).trans (by rw [he]; rfl)

theorem exec_cp0_eq {c : BitVec 12} (h : s.cpfx = .none) :
    exec (.cp0 c) s = .next { s with cpfx := .ready (c.signExtend 28) } := by
  simp [exec, execCp0, withoutPriorPrefix, h]

theorem exec_cp1_eq {c : BitVec 12} (h : s.cpfx = .none) (hx : s.cfg.xlen = .w32) :
    exec (.cp1 c) s = .next { s with cpfx := .half c } := by
  simp [exec, execCp1, withoutPriorPrefix, h, hx]

theorem exec_lb_eq {rd rs : RegNo} {n : BitVec 4} {imm : Word} (h : s.constant n = some imm)
    (hr : s.loadRefusal (s.ea rs imm) 1 = none) :
    exec (.lb rd rs n) s = .next (s.clearCpfx.turn.writeNZ rd
      (sextTo s.cfg.xlen (s.clearCpfx.turn.readByte (s.ea rs imm)))) :=
  by
    simp only [exec, execLb]
    exact State.withConstant_eq h (by
    rw [show s.clearCpfx.loadRefusal (s.clearCpfx.ea rs imm) 1 = none from hr]; rfl)

theorem exec_lc_eq {rd rs : RegNo} {d : BitVec 3} {imm : Word}
    (h : s.constant (rawD3 d) = some imm) (hr : s.loadRefusal (s.ea rs imm) 2 = none) :
    exec (.lc rd rs d) s = .next (s.clearCpfx.turn.writeNZ rd
      (sextTo s.cfg.xlen (s.clearCpfx.turn.readChar (s.ea rs imm)))) :=
  by
    simp only [exec, execLc]
    exact State.withConstant_eq h (by
    rw [show s.clearCpfx.loadRefusal (s.clearCpfx.ea rs imm) 2 = none from hr]; rfl)

theorem exec_lw_eq {rd rs : RegNo} {d : BitVec 3} {imm : Word}
    (h : s.constant (rawD3 d) = some imm) (hx : s.cfg.xlen = .w32)
    (hr : s.loadRefusal (s.ea rs imm) 4 = none) :
    exec (.lw rd rs d) s = .next ((s.clearCpfx.loadWord (s.ea rs imm)).2.writeNZ rd
      (s.clearCpfx.loadWord (s.ea rs imm)).1) :=
  by
    simp only [exec, execLw]
    exact State.withConstant_eq h (by
    rw [show s.clearCpfx.cfg.xlen = .w32 from hx]
    show (match s.clearCpfx.loadRefusal (s.clearCpfx.ea rs imm) 4 with
      | some r => _ | none => _) = _
    rw [show s.clearCpfx.loadRefusal (s.clearCpfx.ea rs imm) 4 = none from hr]; rfl)

theorem exec_sb_eq {rd rs : RegNo} {n : BitVec 4} {imm : Word} (h : s.constant n = some imm)
    (hr : s.storeRefusal (s.ea rs imm) 1 = none) :
    exec (.sb rd rs n) s = .next ((s.clearCpfx.storeByte (s.ea rs imm)
      ((s.readReg rd).extractLsb' 0 8)).noteStale (s.hitsWindow (s.ea rs imm) 1)) :=
  by
    simp only [exec, execSb]
    exact State.withConstant_eq h (by
    rw [show s.clearCpfx.storeRefusal (s.clearCpfx.ea rs imm) 1 = none from hr]; rfl)

theorem exec_sc_eq {rd rs : RegNo} {d : BitVec 3} {imm : Word}
    (h : s.constant (rawD3 d) = some imm) (hr : s.storeRefusal (s.ea rs imm) 2 = none) :
    exec (.sc rd rs d) s = .next ((s.clearCpfx.storeChar (s.ea rs imm)
      ((s.readReg rd).extractLsb' 0 16)).noteStale (s.hitsWindow (s.ea rs imm) 2)) :=
  by
    simp only [exec, execSc]
    exact State.withConstant_eq h (by
    rw [show s.clearCpfx.storeRefusal (s.clearCpfx.ea rs imm) 2 = none from hr]; rfl)

theorem exec_sw_eq {rd rs : RegNo} {d : BitVec 3} {imm : Word}
    (h : s.constant (rawD3 d) = some imm) (hx : s.cfg.xlen = .w32)
    (hr : s.storeRefusal (s.ea rs imm) 4 = none) :
    exec (.sw rd rs d) s = .next ((s.clearCpfx.storeWord (s.ea rs imm)
      (s.readReg rd)).noteStale (s.hitsWindow (s.ea rs imm) 4)) :=
  by
    simp only [exec, execSw]
    exact State.withConstant_eq h (by
    rw [show s.clearCpfx.cfg.xlen = .w32 from hx]
    show (match s.clearCpfx.storeRefusal (s.clearCpfx.ea rs imm) 4 with
      | some r => _ | none => _) = _
    rw [show s.clearCpfx.storeRefusal (s.clearCpfx.ea rs imm) 4 = none from hr]; rfl)

end Sys2Proof.Machine
end

