-- ==== Sys2Proof/Laws/Flags.lean ====
section
/-! SUPPORT. What a write of flags leaves in each flag, what it leaves alone, and the integer reading of
the flag computations. -/

namespace Sys2Proof.Machine

/-! ## Bits of SR -/

/-- Outside its mask a blend is the old SR. -/
theorem blend_kept (sr mask v : BitVec 16) : blend sr mask v &&& ~~~mask = sr &&& ~~~mask := by
  apply BitVec.eq_of_getLsbD_eq
  intro i hi
  simp only [blend, BitVec.getLsbD_and, BitVec.getLsbD_or, BitVec.getLsbD_not]
  cases mask.getLsbD i <;> simp

/-- One bit of a blend. -/
theorem blend_getLsbD (sr mask v : BitVec 16) (i : Nat) (hi : i < 16) :
    (blend sr mask v).getLsbD i = if mask.getLsbD i then v.getLsbD i else sr.getLsbD i := by
  simp only [blend, BitVec.getLsbD_and, BitVec.getLsbD_or, BitVec.getLsbD_not]
  cases mask.getLsbD i <;> simp [hi]

@[simp] theorem flagBits_zero (n v c z : Bool) : (flagBits n v c z).getLsbD 0 = z := by
  cases n <;> cases v <;> cases c <;> cases z <;> rfl
@[simp] theorem flagBits_one (n v c z : Bool) : (flagBits n v c z).getLsbD 1 = c := by
  cases n <;> cases v <;> cases c <;> cases z <;> rfl
@[simp] theorem flagBits_two (n v c z : Bool) : (flagBits n v c z).getLsbD 2 = v := by
  cases n <;> cases v <;> cases c <;> cases z <;> rfl
@[simp] theorem flagBits_three (n v c z : Bool) : (flagBits n v c z).getLsbD 3 = n := by
  cases n <;> cases v <;> cases c <;> cases z <;> rfl

theorem State.maskSr_kept (s : State) (mask v : BitVec 16) : SrKept s (s.maskSr mask v) mask :=
  blend_kept _ _ _

/-! ## Flags after a write of flags -/

variable (s : State)

@[simp] theorem State.setNVCZ_flagN (o : AluOut) : (s.setNVCZ o).flagN = o.n :=
  (blend_getLsbD s.sr 0x000F#16 _ 3 (by decide)).trans (flagBits_three _ _ _ _)
@[simp] theorem State.setNVCZ_flagV (o : AluOut) : (s.setNVCZ o).flagV = o.v :=
  (blend_getLsbD s.sr 0x000F#16 _ 2 (by decide)).trans (flagBits_two _ _ _ _)
@[simp] theorem State.setNVCZ_flagC (o : AluOut) : (s.setNVCZ o).flagC = o.c :=
  (blend_getLsbD s.sr 0x000F#16 _ 1 (by decide)).trans (flagBits_one _ _ _ _)
@[simp] theorem State.setNVCZ_flagZ (o : AluOut) : (s.setNVCZ o).flagZ = o.z :=
  (blend_getLsbD s.sr 0x000F#16 _ 0 (by decide)).trans (flagBits_zero _ _ _ _)
@[simp] theorem State.setNVCZ_flagI (o : AluOut) : (s.setNVCZ o).flagI = s.flagI :=
  blend_getLsbD s.sr 0x000F#16 _ 7 (by decide)

@[simp] theorem State.setNZ_flagN (r : Word) : (s.setNZ r).flagN = msbOf s.cfg.xlen r :=
  (blend_getLsbD s.sr 0x0009#16 _ 3 (by decide)).trans (flagBits_three _ _ _ _)
@[simp] theorem State.setNZ_flagZ (r : Word) : (s.setNZ r).flagZ = (r == 0x00000000#32) :=
  (blend_getLsbD s.sr 0x0009#16 _ 0 (by decide)).trans (flagBits_zero _ _ _ _)
@[simp] theorem State.setNZ_flagV (r : Word) : (s.setNZ r).flagV = s.flagV :=
  blend_getLsbD s.sr 0x0009#16 _ 2 (by decide)
@[simp] theorem State.setNZ_flagC (r : Word) : (s.setNZ r).flagC = s.flagC :=
  blend_getLsbD s.sr 0x0009#16 _ 1 (by decide)

@[simp] theorem State.setNCZ_flagN (r : Word) (c : Bool) :
    (s.setNCZ r c).flagN = msbOf s.cfg.xlen r :=
  (blend_getLsbD s.sr 0x000B#16 _ 3 (by decide)).trans (flagBits_three _ _ _ _)
@[simp] theorem State.setNCZ_flagC (r : Word) (c : Bool) : (s.setNCZ r c).flagC = c :=
  (blend_getLsbD s.sr 0x000B#16 _ 1 (by decide)).trans (flagBits_one _ _ _ _)
@[simp] theorem State.setNCZ_flagZ (r : Word) (c : Bool) :
    (s.setNCZ r c).flagZ = (r == 0x00000000#32) :=
  (blend_getLsbD s.sr 0x000B#16 _ 0 (by decide)).trans (flagBits_zero _ _ _ _)
@[simp] theorem State.setNCZ_flagV (r : Word) (c : Bool) : (s.setNCZ r c).flagV = s.flagV :=
  blend_getLsbD s.sr 0x000B#16 _ 2 (by decide)

/-! ## The two halves of SR -/

theorem srEnter_backup (sr : BitVec 16) : (srEnter sr).extractLsb' 8 8 = sr.extractLsb' 0 8 := by
  apply BitVec.eq_of_getLsbD_eq
  intro i hi
  simp only [srEnter, srWork, BitVec.getLsbD_extractLsb', BitVec.getLsbD_append]
  interval_cases i <;> simp

theorem srEnter_work (sr : BitVec 16) :
    (srEnter sr).extractLsb' 0 8 = sr.extractLsb' 0 8 ||| 0x80#8 := by
  apply BitVec.eq_of_getLsbD_eq
  intro i hi
  simp only [srEnter, srWork, BitVec.getLsbD_extractLsb', BitVec.getLsbD_append]
  interval_cases i <;> simp

theorem srReturn_work (sr : BitVec 16) :
    (srReturn sr).extractLsb' 0 8 = sr.extractLsb' 8 8 := by
  apply BitVec.eq_of_getLsbD_eq
  intro i hi
  simp only [srReturn, srBackup, BitVec.getLsbD_extractLsb', BitVec.getLsbD_append]
  interval_cases i <;> simp

theorem srReturn_backup (sr : BitVec 16) :
    (srReturn sr).extractLsb' 8 8 = sr.extractLsb' 8 8 := by
  apply BitVec.eq_of_getLsbD_eq
  intro i hi
  simp only [srReturn, srBackup, BitVec.getLsbD_extractLsb', BitVec.getLsbD_append]
  interval_cases i <;> simp

/-- The entry sets I. -/
theorem srEnter_flagI (sr : BitVec 16) : (srEnter sr).getLsbD 7 = true := by
  have h := congrArg (·.getLsbD 7) (srEnter_work sr)
  simpa [BitVec.getLsbD_extractLsb'] using h

/-! ## Width -/

theorem Xlen.bits_cases (x : Xlen) : x.bits = 32 ∨ x.bits = 16 := by cases x <;> simp [Xlen.bits]

/-- A number below 2^W fits in W bits. -/
theorem Xlen.fit_ofNat (x : Xlen) {k : Nat} (h : k < 2 ^ x.bits) :
    x.fit (BitVec.ofNat 32 k) = BitVec.ofNat 32 k := by
  apply BitVec.eq_of_toNat_eq
  rw [Xlen.fit_toNat, BitVec.toNat_ofNat]
  cases x <;> simp only [Xlen.bits] at h ⊢ <;> omega

/-- A value fits in W bits exactly when it is below 2^W. -/
theorem Xlen.fit_eq_iff (x : Xlen) (v : Word) : x.fit v = v ↔ v.toNat < 2 ^ x.bits := by
  rw [← BitVec.toNat_inj, Xlen.fit_toNat, Nat.mod_eq_iff_lt (by positivity)]

/-- The sign bit of a number below 2^W. -/
theorem msbOf_ofNat (x : Xlen) {k : Nat} (h : k < 2 ^ x.bits) :
    msbOf x (BitVec.ofNat 32 k) = decide (2 ^ (x.bits - 1) ≤ k) := by
  unfold msbOf
  rw [BitVec.getLsbD, BitVec.toNat_ofNat, Nat.testBit_eq_decide_div_mod_eq, decide_eq_decide]
  cases x <;> simp only [Xlen.bits] at h ⊢ <;> omega

theorem ofNat_eq_zero (x : Xlen) {k : Nat} (h : k < 2 ^ x.bits) :
    (BitVec.ofNat 32 k == 0x00000000#32) = decide (k = 0) := by
  rw [Bool.eq_iff_iff, beq_iff_eq, decide_eq_true_iff, ← BitVec.toNat_inj]
  simp only [BitVec.toNat_ofNat]
  cases x <;> simp only [Xlen.bits] at h <;> omega

/-- The integer is outside the signed range exactly when it overflows. -/
theorem inSignedRange_not (x : Xlen) (d : Int) :
    (!inSignedRange x d) = true ↔ SignedOverflow x d := by
  simp only [inSignedRange, SignedOverflow, Bool.not_eq_true', Bool.and_eq_false_iff,
    decide_eq_false_iff_not]
  generalize (2 : Int) ^ (x.bits - 1) = m
  omega

/-- A prefix that is not there is cleared for free. -/
theorem State.clearCpfx_of (h : s.cpfx = .none) : s.clearCpfx = s := by
  cases s; cases h; rfl

/-! ## The arithmetic results, in integers -/

/-- What writing a sum and its flags leaves (00_scope.md R10). -/
theorem State.writeAlu_add (rd : RegNo) (a b : Word) (cin : Bool) :
    SumWritten s (s.clearCpfx.writeAlu rd (s.add a b cin)) rd a b cin := by
  have hlt : sumOf a b cin % 2 ^ s.cfg.xlen.bits < 2 ^ s.cfg.xlen.bits :=
    Nat.mod_lt _ (by positivity)
  refine ⟨fun q => ?_, ⟨?_, ?_, ?_, ?_, ?_⟩, ⟨rfl, rfl, rfl, fun _ => rfl, ?_⟩⟩
  · refine (State.readReg_writeReg s.clearCpfx rd q _).trans ?_
    rw [show s.clearCpfx.fit (s.add a b cin).value = (s.add a b cin).value from
      Xlen.fit_ofNat _ hlt]
    rfl
  · rw [State.writeAlu, State.setNVCZ_flagN]
    exact (congrArg (· = true) (msbOf_ofNat _ hlt)).to_iff.trans decide_eq_true_iff
  · rw [State.writeAlu, State.setNVCZ_flagV]
    exact inSignedRange_not _ _
  · rw [State.writeAlu, State.setNVCZ_flagC]
    exact decide_eq_true_iff
  · rw [State.writeAlu, State.setNVCZ_flagZ]
    exact (congrArg (· = true) (ofNat_eq_zero _ hlt)).to_iff.trans decide_eq_true_iff
  · exact State.maskSr_kept (s.clearCpfx.writeReg rd _) _ _
  · constructor <;> rfl

/-- The flags that writing a difference leaves (00_scope.md R11). -/
theorem State.setNVCZ_sub (a b : Word) (bin : Bool) :
    DiffFlags s (s.setNVCZ (s.sub a b bin)) a b bin := by
  have h0 : 0 ≤ diffOf a b bin % 2 ^ s.cfg.xlen.bits := Int.emod_nonneg _ (by positivity)
  have h1 : diffOf a b bin % 2 ^ s.cfg.xlen.bits < 2 ^ s.cfg.xlen.bits :=
    Int.emod_lt_of_pos _ (by positivity)
  obtain ⟨k, hk⟩ := Int.eq_ofNat_of_zero_le h0
  have hlt : k < 2 ^ s.cfg.xlen.bits := by rw [hk] at h1; exact_mod_cast h1
  have hv : (s.sub a b bin).value = BitVec.ofNat 32 k := by
    show BitVec.ofInt 32 (diffOf a b bin % 2 ^ s.cfg.xlen.bits) = _
    rw [hk]; exact BitVec.ofInt_natCast 32 k
  refine ⟨?_, ?_, ?_, ?_, ?_, ?_⟩
  · rw [State.setNVCZ_flagN, hk]
    refine (congrArg (· = true) ((congrArg (msbOf s.cfg.xlen) hv).trans
      (msbOf_ofNat _ hlt))).to_iff.trans (decide_eq_true_iff.trans ?_)
    exact_mod_cast Iff.rfl
  · rw [State.setNVCZ_flagV]
    exact inSignedRange_not _ _
  · intro hs
    rw [State.setNVCZ_flagC]
    simp [State.sub, subFlags, hs, carryOfBorrow, diffOf]
  · intro hs
    rw [State.setNVCZ_flagC]
    simp [State.sub, subFlags, hs, carryOfBorrow, diffOf]
  · rw [State.setNVCZ_flagZ, hk]
    refine (congrArg (· = true) ((congrArg (· == 0x00000000#32) hv).trans
      (ofNat_eq_zero _ hlt))).to_iff.trans (decide_eq_true_iff.trans ?_)
    exact_mod_cast Iff.rfl
  · exact State.maskSr_kept s _ _

/-- A difference modulo 2^W fits in W bits. -/
theorem State.sub_fit (a b : Word) (bin : Bool) :
    s.fit (s.sub a b bin).value = (s.sub a b bin).value := by
  have h0 : 0 ≤ diffOf a b bin % 2 ^ s.cfg.xlen.bits := Int.emod_nonneg _ (by positivity)
  have h1 : diffOf a b bin % 2 ^ s.cfg.xlen.bits < 2 ^ s.cfg.xlen.bits :=
    Int.emod_lt_of_pos _ (by positivity)
  obtain ⟨k, hk⟩ := Int.eq_ofNat_of_zero_le h0
  have hlt : k < 2 ^ s.cfg.xlen.bits := by rw [hk] at h1; exact_mod_cast h1
  have hv : (s.sub a b bin).value = BitVec.ofNat 32 k := by
    show BitVec.ofInt 32 (diffOf a b bin % 2 ^ s.cfg.xlen.bits) = _
    rw [hk]; exact BitVec.ofInt_natCast 32 k
  rw [hv]
  exact Xlen.fit_ofNat _ hlt

/-- What writing a difference and its flags leaves (00_scope.md R11). -/
theorem State.writeAlu_sub (rd : RegNo) (a b : Word) (bin : Bool) :
    DiffWritten s (s.clearCpfx.writeAlu rd (s.sub a b bin)) rd a b bin := by
  have hf := State.setNVCZ_sub (s.clearCpfx.writeReg rd (s.sub a b bin).value) a b bin
  refine ⟨fun q => ?_, ⟨hf.n, hf.v, hf.cBorrow, hf.cNotBorrow, hf.z, hf.kept⟩,
    ⟨rfl, rfl, rfl, fun _ => rfl, ?_⟩⟩
  · refine (State.readReg_writeReg s.clearCpfx rd q _).trans ?_
    rw [show s.clearCpfx.fit (s.sub a b bin).value = (s.sub a b bin).value from
      State.sub_fit s a b bin]
    rfl
  · constructor <;> rfl

/-- What writing a result with N and Z leaves (00_scope.md R12). -/
theorem State.writeNZ_written (rd : RegNo) (r : Word) (h : s.fit r = r) :
    NZWritten s (s.clearCpfx.writeNZ rd r) rd r := by
  refine ⟨fun q => ?_, ⟨?_, ?_, ?_⟩, ⟨rfl, rfl, rfl, fun _ => rfl, ?_⟩⟩
  · refine (State.readReg_writeReg s.clearCpfx rd q _).trans ?_
    rw [show s.clearCpfx.fit r = r from h]
    rfl
  · exact State.setNZ_flagN (s.clearCpfx.writeReg rd r) r
  · rw [State.writeNZ, State.setNZ_flagZ, beq_iff_eq]
  · exact State.maskSr_kept (s.clearCpfx.writeReg rd r) _ _
  · constructor <;> rfl

/-- What writing a shift's result leaves (42_shifts.md R170). -/
theorem State.writeNCZ_written (rd : RegNo) (r : Word) (c : Bool) (h : s.fit r = r) :
    ShiftWritten s (s.clearCpfx.writeNCZ rd r c) rd r c := by
  refine ⟨fun q => ?_, ⟨?_, ?_, ?_⟩, ?_, ⟨rfl, rfl, rfl, fun _ => rfl, ?_⟩⟩
  · refine (State.readReg_writeReg s.clearCpfx rd q _).trans ?_
    rw [show s.clearCpfx.fit r = r from h]
    rfl
  · exact State.setNCZ_flagN (s.clearCpfx.writeReg rd r) r c
  · rw [State.writeNCZ, State.setNCZ_flagZ, beq_iff_eq]
  · exact State.maskSr_kept (s.clearCpfx.writeReg rd r) _ _
  · exact State.setNCZ_flagC (s.clearCpfx.writeReg rd r) r c
  · constructor <;> rfl

end Sys2Proof.Machine
end

