-- ==== Sys2Proof/Laws/Memory.lean ====
section
/-! SUPPORT. Memory as data: read after write, and the canonical form under every memory operation. -/

namespace Sys2Proof.Machine

theorem Memory.wfFrom_cons {low k : Nat} {v : Byte} {m : Memory} :
    Memory.wfFrom low ((k, v) :: m) = true ↔
      low ≤ k ∧ k < 2 ^ 32 ∧ v ≠ Config.unwrittenByte ∧ Memory.wfFrom (k + 1) m = true := by
  simp [Memory.wfFrom, and_assoc]

theorem Memory.wfFrom_mono {low low' : Nat} (h : low' ≤ low) {m : Memory}
    (hm : Memory.wfFrom low m = true) : Memory.wfFrom low' m = true := by
  cases m with
  | nil => rfl
  | cons c m =>
    obtain ⟨h1, h2⟩ := Memory.wfFrom_cons.mp hm
    exact Memory.wfFrom_cons.mpr ⟨h.trans h1, h2⟩

/-- Below its first possible address a memory in canonical form lists nothing. -/
theorem Memory.read_below {low : Nat} {m : Memory} (hm : Memory.wfFrom low m = true) {a : Nat}
    (ha : a < low) : Memory.read m a = Config.unwrittenByte := by
  induction m generalizing low with
  | nil => rfl
  | cons c m ih =>
    obtain ⟨h1, -, -, h4⟩ := Memory.wfFrom_cons.mp hm
    rw [Memory.read, if_neg (by omega)]
    exact ih h4 (by omega)

/-- A byte read after a write: the byte written, at its address; else what was there. -/
theorem Memory.read_write {low : Nat} {m : Memory} (hm : Memory.wfFrom low m = true) (a p : Nat)
    (b : Byte) :
    Memory.read (Memory.write m a b) p = if p = a then b else Memory.read m p := by
  induction m generalizing low with
  | nil =>
    by_cases hb : b = Config.unwrittenByte <;> by_cases hp : p = a <;>
      simp [Memory.write, Memory.read, hb, hp]
  | cons c m ih =>
    obtain ⟨k, v⟩ := c
    obtain ⟨h1, h2, h3, h4⟩ := Memory.wfFrom_cons.mp hm
    have below : ∀ q, q ≤ k → Memory.read m q = Config.unwrittenByte := fun q hq =>
      Memory.read_below h4 (by omega)
    by_cases hp : p = a
    · subst hp
      simp only [Memory.write, if_true]
      split
      · next hlt =>
        split
        · next hb => rw [Memory.read, if_neg (by omega), below p (by omega), hb]
        · rw [Memory.read, if_pos rfl]
      · split
        · next hpk =>
          split
          · next hb => rw [below p (by omega), hb]
          · rw [Memory.read, if_pos rfl]
        · next hpk => rw [Memory.read, if_neg hpk, ih h4, if_pos rfl]
    · rw [if_neg hp, Memory.write]
      split
      · split
        · rfl
        · rw [Memory.read, if_neg hp]
      · split
        · next hak =>
          subst hak
          split
          · rw [Memory.read, if_neg hp]
          · rw [Memory.read, Memory.read, if_neg hp, if_neg hp]
        · rw [Memory.read, Memory.read, ih h4, if_neg hp]

theorem Memory.wfFrom_write {low : Nat} {m : Memory} (hm : Memory.wfFrom low m = true) {a : Nat}
    (hl : low ≤ a) (ha : a < 2 ^ 32) (b : Byte) :
    Memory.wfFrom low (Memory.write m a b) = true := by
  induction m generalizing low with
  | nil =>
    rw [Memory.write]
    split
    · rfl
    · next hb => exact Memory.wfFrom_cons.mpr ⟨hl, ha, hb, rfl⟩
  | cons c m ih =>
    obtain ⟨k, v⟩ := c
    obtain ⟨h1, h2, h3, h4⟩ := Memory.wfFrom_cons.mp hm
    rw [Memory.write]
    split
    · next hlt =>
      split
      · exact hm
      · next hb =>
        exact Memory.wfFrom_cons.mpr
          ⟨hl, ha, hb, Memory.wfFrom_cons.mpr ⟨by omega, h2, h3, h4⟩⟩
    · split
      · next hak =>
        split
        · exact Memory.wfFrom_mono (by omega) h4
        · next hb => exact Memory.wfFrom_cons.mpr ⟨hl, ha, hb, hak ▸ h4⟩
      · exact Memory.wfFrom_cons.mpr ⟨h1, h2, h3, ih h4 (by omega)⟩

/-- A write keeps the canonical form. -/
theorem Memory.wf_write {m : Memory} (hm : Memory.wf m = true) {a : Nat} (ha : a < 2 ^ 32)
    (b : Byte) : Memory.wf (Memory.write m a b) = true :=
  Memory.wfFrom_write hm (Nat.zero_le a) ha b

theorem Memory.write_mem {m : Memory} {a : Nat} {b : Byte} {c : Host.Cell}
    (hc : c ∈ Memory.write m a b) : c.1 = a ∨ c ∈ m := by
  induction m with
  | nil =>
    rw [Memory.write] at hc
    split at hc
    · cases hc
    · exact .inl (by simpa using congrArg Prod.fst (List.mem_singleton.mp hc))
  | cons d m ih =>
    obtain ⟨k, v⟩ := d
    rw [Memory.write] at hc
    split at hc
    · split at hc
      · exact .inr hc
      · rcases List.mem_cons.mp hc with h | h
        · exact .inl (by rw [h])
        · exact .inr h
    · split at hc
      · split at hc
        · exact .inr (List.mem_cons_of_mem _ hc)
        · rcases List.mem_cons.mp hc with h | h
          · exact .inl (by rw [h])
          · exact .inr (List.mem_cons_of_mem _ h)
      · rcases List.mem_cons.mp hc with h | h
        · exact .inr (h ▸ List.mem_cons_self)
        · exact (ih h).imp id (List.mem_cons_of_mem _)

/-- Another master's burst keeps the canonical form. -/
theorem Memory.wf_writeBurst (x : Xlen) {m : Memory} (hm : Memory.wf m = true)
    (ws : List (Word × Byte)) : Memory.wf (Memory.writeBurst x m ws) = true := by
  induction ws generalizing m with
  | nil => exact hm
  | cons w ws ih => exact ih (Memory.wf_write hm (x.fit w.1).isLt w.2)

/-- Every memory operation of a state keeps the canonical form. -/
theorem State.writeByte_wf {s : State} (h : Memory.wf s.mem = true) (a : Word) (b : Byte) :
    Memory.wf (s.writeByte a b).mem = true := Memory.wf_write h a.isLt b

theorem State.writeChar_wf {s : State} (h : Memory.wf s.mem = true) (a : Word) (c : Char16) :
    Memory.wf (s.writeChar a c).mem = true :=
  Memory.wf_write (Memory.wf_write h a.isLt _) (s.offset a 1).isLt _

theorem State.turn_wf {s : State} (h : Memory.wf s.mem = true) :
    Memory.wf s.turn.mem = true := by
  unfold State.turn
  split
  · exact Memory.wf_writeBurst _ h _
  · exact h

theorem State.storeByte_wf {s : State} (h : Memory.wf s.mem = true) (a : Word) (b : Byte) :
    Memory.wf (s.storeByte a b).mem = true := State.writeByte_wf (State.turn_wf h) a b

theorem State.storeChar_wf {s : State} (h : Memory.wf s.mem = true) (a : Word) (c : Char16) :
    Memory.wf (s.storeChar a c).mem = true := State.writeChar_wf (State.turn_wf h) a c

theorem State.storeWord_wf {s : State} (h : Memory.wf s.mem = true) (a w : Word) :
    Memory.wf (s.storeWord a w).mem = true :=
  State.writeChar_wf (State.turn_wf (State.writeChar_wf (State.turn_wf h) a _)) _ _

/-- The memory after reset is in canonical form. -/
theorem Memory.wf_reset : Memory.wf State.reset.mem = true := rfl

/-- A byte of a state read after a byte write. -/
theorem State.readByte_writeByte {s : State} (h : Memory.wf s.mem = true) (a p : Word) (b : Byte) :
    (s.writeByte a b).readByte p = if p = a then b else s.readByte p := by
  rw [State.readByte, State.writeByte_mem, Memory.read_write h]
  simp only [BitVec.toNat_inj, State.readByte]

end Sys2Proof.Machine
end

