-- ==== Sys2Proof/Laws/PerInstr.lean ====
section
/-! SUPPORT. Statements about every instruction as syntax, one lemma for each constructor.

`FixedBits`: the encoding of an instruction carries the fixed bits (mask and match) that
spec/opcode_table.json prints for its row. -/

namespace Sys2Proof.Laws

/-- AND of characters, nibble by nibble. -/
theorem nibbles_and (a b c d e f g h : BitVec 4) :
    nibbles a b c d &&& nibbles e f g h =
      nibbles (a &&& e) (b &&& f) (c &&& g) (d &&& h) := by
  apply BitVec.eq_of_getLsbD_eq
  intro i hi
  simp only [nibbles, BitVec.getLsbD_and, BitVec.getLsbD_append]
  interval_cases i <;> simp

/-- The bits a row of the opcode table fixes: its mask. -/
def FixedBits.mask : Instr → Char16
  | .brk | .sys | .irq | .nmi | .reset | .ei | .di | .nop | .stop | .endMark | .trc => 0xFFFF#16
  | .dbg | .ri | .ret => 0xFFFF#16
  | .rti _ => 0xFFF0#16
  | .addI _ _ _ | .lea _ _ _ | .subI _ _ _ | .cp0 _ | .cp1 _ | .jal _ _ _ | .callS _ => 0xF000#16
  | .sb _ _ _ | .lb _ _ _ => 0xF000#16
  | .cmpI _ _ | .jmp _ _ | .callR _ _ => 0xFF00#16
  | .addR _ _ | .adcR _ _ | .subR _ _ | .sbcR _ _ | .xorR _ _ | .andR _ _ | .orR _ _ => 0xF00F#16
  | .cmpR _ _ => 0xF00F#16
  | .zxb _ | .zxc _ | .sxb _ | .sxc _ | .negR _ | .notR _ | .shl _ | .rol _ | .shr _ => 0xF0FF#16
  | .asr _ | .ror _ => 0xF0FF#16
  | .adcI _ _ | .subrI _ _ | .sbcI _ _ | .xorI _ _ | .andI _ _ | .orI _ _ | .tsr _ _ => 0xF0F0#16
  | .trs _ _ => 0xF0F0#16
  | .blt _ | .bge _ | .ble _ | .bgt _ | .bltu _ | .bgeu _ | .bleu _ | .bgtu _ | .beq _ => 0xEF00#16
  | .bne _ | .bmi _ | .bpl _ | .bra _ | .bsr _ | .callPc _ => 0xEF00#16
  | .sc _ _ _ | .sw _ _ _ | .lc _ _ _ | .lw _ _ _ => 0xF001#16

/-- The values a row of the opcode table fixes those bits to: its match. -/
def FixedBits.fixed : Instr → Char16
  | .brk => 0x0000#16
  | .sys => 0x0001#16
  | .irq => 0x000D#16
  | .nmi => 0x000E#16
  | .reset => 0x000F#16
  | .ei => 0x0010#16
  | .di => 0x0011#16
  | .nop => 0x0020#16
  | .stop => 0x0021#16
  | .endMark => 0x0022#16
  | .trc => 0x000B#16
  | .dbg => 0x000C#16
  | .ri => 0x0012#16
  | .rti _ => 0x0040#16
  | .addI _ _ _ => 0x1000#16
  | .lea _ _ _ => 0x1000#16
  | .subI _ _ _ => 0x1000#16
  | .cmpI _ _ => 0x1000#16
  | .addR _ _ => 0x2000#16
  | .adcR _ _ => 0x2001#16
  | .subR _ _ => 0x2002#16
  | .sbcR _ _ => 0x2003#16
  | .xorR _ _ => 0x2004#16
  | .andR _ _ => 0x2005#16
  | .orR _ _ => 0x2006#16
  | .cmpR _ _ => 0x200D#16
  | .zxb _ => 0x200E#16
  | .zxc _ => 0x201E#16
  | .sxb _ => 0x202E#16
  | .sxc _ => 0x203E#16
  | .adcI _ _ => 0x3010#16
  | .subrI _ _ => 0x3020#16
  | .sbcI _ _ => 0x3030#16
  | .xorI _ _ => 0x3040#16
  | .andI _ _ => 0x3050#16
  | .orI _ _ => 0x3060#16
  | .negR _ => 0x3020#16
  | .notR _ => 0x304F#16
  | .shl _ => 0x3081#16
  | .rol _ => 0x3091#16
  | .shr _ => 0x30A1#16
  | .asr _ => 0x30B1#16
  | .ror _ => 0x30C1#16
  | .tsr _ _ => 0x30E0#16
  | .trs _ _ => 0x30F0#16
  | .cp0 _ => 0x4000#16
  | .cp1 _ => 0x5000#16
  | .jal _ _ _ => 0x8000#16
  | .jmp _ _ => 0x8000#16
  | .callR _ _ => 0x8F00#16
  | .ret => 0x80F0#16
  | .callS _ => 0x9000#16
  | .blt _ => 0xA000#16
  | .bge _ => 0xA100#16
  | .ble _ => 0xA200#16
  | .bgt _ => 0xA300#16
  | .bltu _ => 0xA400#16
  | .bgeu _ => 0xA500#16
  | .bleu _ => 0xA600#16
  | .bgtu _ => 0xA700#16
  | .beq _ => 0xA800#16
  | .bne _ => 0xA900#16
  | .bmi _ => 0xAA00#16
  | .bpl _ => 0xAB00#16
  | .bra _ => 0xAE00#16
  | .bsr _ => 0xAF00#16
  | .callPc _ => 0xAF00#16
  | .sb _ _ _ => 0xC000#16
  | .sc _ _ _ => 0xD000#16
  | .sw _ _ _ => 0xD001#16
  | .lb _ _ _ => 0xE000#16
  | .lc _ _ _ => 0xF000#16
  | .lw _ _ _ => 0xF001#16

/-- The encoding carries the fixed bits of its row of spec/opcode_table.json. -/
def FixedBits.Statement (i : Instr) : Prop :=
  encode Config.default i &&& FixedBits.mask i = FixedBits.fixed i

theorem FixedBits.brk : FixedBits.Statement (.brk) := rfl

theorem FixedBits.sys : FixedBits.Statement (.sys) := rfl

theorem FixedBits.irq : FixedBits.Statement (.irq) := rfl

theorem FixedBits.nmi : FixedBits.Statement (.nmi) := rfl

theorem FixedBits.reset : FixedBits.Statement (.reset) := rfl

theorem FixedBits.ei : FixedBits.Statement (.ei) := rfl

theorem FixedBits.di : FixedBits.Statement (.di) := rfl

theorem FixedBits.nop : FixedBits.Statement (.nop) := rfl

theorem FixedBits.stop : FixedBits.Statement (.stop) := rfl

theorem FixedBits.endMark : FixedBits.Statement (.endMark) := rfl

theorem FixedBits.trc : FixedBits.Statement (.trc) := rfl

theorem FixedBits.dbg : FixedBits.Statement (.dbg) := rfl

theorem FixedBits.ri : FixedBits.Statement (.ri) := rfl

theorem FixedBits.rti (n : BitVec 4) : FixedBits.Statement (.rti n) :=
  (nibbles_and _ _ _ _ 0xF#4 0xF#4 0xF#4 0x0#4).trans (by simp; rfl)

theorem FixedBits.addI (rd : RegNo) (rs : RegNo) (n : BitVec 4) :
    FixedBits.Statement (.addI rd rs n) :=
  (nibbles_and _ _ _ _ 0xF#4 0x0#4 0x0#4 0x0#4).trans (by simp; rfl)

theorem FixedBits.lea (rd : RegNo) (rs : RegNo) (n : BitVec 4) :
    FixedBits.Statement (.lea rd rs n) :=
  (nibbles_and _ _ _ _ 0xF#4 0x0#4 0x0#4 0x0#4).trans (by simp; rfl)

theorem FixedBits.subI (rd : RegNo) (rs : RegNo) (n : BitVec 4) :
    FixedBits.Statement (.subI rd rs n) :=
  (nibbles_and _ _ _ _ 0xF#4 0x0#4 0x0#4 0x0#4).trans (by simp; rfl)

theorem FixedBits.cmpI (rs : RegNo) (n : BitVec 4) : FixedBits.Statement (.cmpI rs n) :=
  (nibbles_and _ _ _ _ 0xF#4 0xF#4 0x0#4 0x0#4).trans (by simp; rfl)

theorem FixedBits.addR (rd : RegNo) (rs : RegNo) : FixedBits.Statement (.addR rd rs) :=
  (nibbles_and _ _ _ _ 0xF#4 0x0#4 0x0#4 0xF#4).trans (by simp; rfl)

theorem FixedBits.adcR (rd : RegNo) (rs : RegNo) : FixedBits.Statement (.adcR rd rs) :=
  (nibbles_and _ _ _ _ 0xF#4 0x0#4 0x0#4 0xF#4).trans (by simp; rfl)

theorem FixedBits.subR (rd : RegNo) (rs : RegNo) : FixedBits.Statement (.subR rd rs) :=
  (nibbles_and _ _ _ _ 0xF#4 0x0#4 0x0#4 0xF#4).trans (by simp; rfl)

theorem FixedBits.sbcR (rd : RegNo) (rs : RegNo) : FixedBits.Statement (.sbcR rd rs) :=
  (nibbles_and _ _ _ _ 0xF#4 0x0#4 0x0#4 0xF#4).trans (by simp; rfl)

theorem FixedBits.xorR (rd : RegNo) (rs : RegNo) : FixedBits.Statement (.xorR rd rs) :=
  (nibbles_and _ _ _ _ 0xF#4 0x0#4 0x0#4 0xF#4).trans (by simp; rfl)

theorem FixedBits.andR (rd : RegNo) (rs : RegNo) : FixedBits.Statement (.andR rd rs) :=
  (nibbles_and _ _ _ _ 0xF#4 0x0#4 0x0#4 0xF#4).trans (by simp; rfl)

theorem FixedBits.orR (rd : RegNo) (rs : RegNo) : FixedBits.Statement (.orR rd rs) :=
  (nibbles_and _ _ _ _ 0xF#4 0x0#4 0x0#4 0xF#4).trans (by simp; rfl)

theorem FixedBits.cmpR (rd : RegNo) (rs : RegNo) : FixedBits.Statement (.cmpR rd rs) :=
  (nibbles_and _ _ _ _ 0xF#4 0x0#4 0x0#4 0xF#4).trans (by simp; rfl)

theorem FixedBits.zxb (rd : RegNo) : FixedBits.Statement (.zxb rd) :=
  (nibbles_and _ _ _ _ 0xF#4 0x0#4 0xF#4 0xF#4).trans (by simp; rfl)

theorem FixedBits.zxc (rd : RegNo) : FixedBits.Statement (.zxc rd) :=
  (nibbles_and _ _ _ _ 0xF#4 0x0#4 0xF#4 0xF#4).trans (by simp; rfl)

theorem FixedBits.sxb (rd : RegNo) : FixedBits.Statement (.sxb rd) :=
  (nibbles_and _ _ _ _ 0xF#4 0x0#4 0xF#4 0xF#4).trans (by simp; rfl)

theorem FixedBits.sxc (rd : RegNo) : FixedBits.Statement (.sxc rd) :=
  (nibbles_and _ _ _ _ 0xF#4 0x0#4 0xF#4 0xF#4).trans (by simp; rfl)

theorem FixedBits.adcI (rd : RegNo) (n : BitVec 4) : FixedBits.Statement (.adcI rd n) :=
  (nibbles_and _ _ _ _ 0xF#4 0x0#4 0xF#4 0x0#4).trans (by simp; rfl)

theorem FixedBits.subrI (rd : RegNo) (n : BitVec 4) : FixedBits.Statement (.subrI rd n) :=
  (nibbles_and _ _ _ _ 0xF#4 0x0#4 0xF#4 0x0#4).trans (by simp; rfl)

theorem FixedBits.sbcI (rd : RegNo) (n : BitVec 4) : FixedBits.Statement (.sbcI rd n) :=
  (nibbles_and _ _ _ _ 0xF#4 0x0#4 0xF#4 0x0#4).trans (by simp; rfl)

theorem FixedBits.xorI (rd : RegNo) (n : BitVec 4) : FixedBits.Statement (.xorI rd n) :=
  (nibbles_and _ _ _ _ 0xF#4 0x0#4 0xF#4 0x0#4).trans (by simp; rfl)

theorem FixedBits.andI (rd : RegNo) (n : BitVec 4) : FixedBits.Statement (.andI rd n) :=
  (nibbles_and _ _ _ _ 0xF#4 0x0#4 0xF#4 0x0#4).trans (by simp; rfl)

theorem FixedBits.orI (rd : RegNo) (n : BitVec 4) : FixedBits.Statement (.orI rd n) :=
  (nibbles_and _ _ _ _ 0xF#4 0x0#4 0xF#4 0x0#4).trans (by simp; rfl)

theorem FixedBits.negR (rd : RegNo) : FixedBits.Statement (.negR rd) :=
  (nibbles_and _ _ _ _ 0xF#4 0x0#4 0xF#4 0xF#4).trans (by simp; rfl)

theorem FixedBits.notR (rd : RegNo) : FixedBits.Statement (.notR rd) :=
  (nibbles_and _ _ _ _ 0xF#4 0x0#4 0xF#4 0xF#4).trans (by simp; rfl)

theorem FixedBits.shl (rd : RegNo) : FixedBits.Statement (.shl rd) :=
  (nibbles_and _ _ _ _ 0xF#4 0x0#4 0xF#4 0xF#4).trans (by simp; rfl)

theorem FixedBits.rol (rd : RegNo) : FixedBits.Statement (.rol rd) :=
  (nibbles_and _ _ _ _ 0xF#4 0x0#4 0xF#4 0xF#4).trans (by simp; rfl)

theorem FixedBits.shr (rd : RegNo) : FixedBits.Statement (.shr rd) :=
  (nibbles_and _ _ _ _ 0xF#4 0x0#4 0xF#4 0xF#4).trans (by simp; rfl)

theorem FixedBits.asr (rd : RegNo) : FixedBits.Statement (.asr rd) :=
  (nibbles_and _ _ _ _ 0xF#4 0x0#4 0xF#4 0xF#4).trans (by simp; rfl)

theorem FixedBits.ror (rd : RegNo) : FixedBits.Statement (.ror rd) :=
  (nibbles_and _ _ _ _ 0xF#4 0x0#4 0xF#4 0xF#4).trans (by simp; rfl)

theorem FixedBits.tsr (rd : RegNo) (spr : Spr) : FixedBits.Statement (.tsr rd spr) := by
  cases spr <;>
    exact (nibbles_and _ _ _ _ 0xF#4 0x0#4 0xF#4 0x0#4).trans (by simp [encodeSpr]; rfl)

theorem FixedBits.trs (rd : RegNo) (spr : Spr) : FixedBits.Statement (.trs rd spr) := by
  cases spr <;>
    exact (nibbles_and _ _ _ _ 0xF#4 0x0#4 0xF#4 0x0#4).trans (by simp [encodeSpr]; rfl)

theorem fixed_opLow12 (op : BitVec 4) (c : BitVec 12) :
    opLow12 op c &&& 0xF000#16 = opLow12 op 0x000#12 := by
  apply BitVec.eq_of_getLsbD_eq
  intro i hi
  simp only [opLow12, BitVec.getLsbD_and, BitVec.getLsbD_append]
  interval_cases i <;> simp

theorem fixed_branchChar (code : BitVec 4) (d : BitVec 9) :
    branchChar code d &&& 0xEF00#16 = branchChar code 0x000#9 := by
  apply BitVec.eq_of_getLsbD_eq
  intro i hi
  simp only [branchChar, BitVec.getLsbD_and, BitVec.getLsbD_append]
  interval_cases i <;> simp

theorem fixed_rrd3 (op rd rs : BitVec 4) (d : BitVec 3) (b : BitVec 1) :
    rrd3 op rd rs d b &&& 0xF001#16 = rrd3 op 0x0#4 0x0#4 0x0#3 b := by
  apply BitVec.eq_of_getLsbD_eq
  intro i hi
  simp only [rrd3, BitVec.getLsbD_and, BitVec.getLsbD_append]
  interval_cases i <;> simp

theorem FixedBits.cp0 (c : BitVec 12) : FixedBits.Statement (.cp0 c) := fixed_opLow12 _ c

theorem FixedBits.cp1 (c : BitVec 12) : FixedBits.Statement (.cp1 c) := fixed_opLow12 _ c

theorem FixedBits.jal (rd : RegNo) (rs : RegNo) (n : BitVec 4) :
    FixedBits.Statement (.jal rd rs n) :=
  (nibbles_and _ _ _ _ 0xF#4 0x0#4 0x0#4 0x0#4).trans (by simp; rfl)

theorem FixedBits.jmp (rs : RegNo) (n : BitVec 4) : FixedBits.Statement (.jmp rs n) :=
  (nibbles_and _ _ _ _ 0xF#4 0xF#4 0x0#4 0x0#4).trans (by simp; rfl)

theorem FixedBits.callR (rs : RegNo) (n : BitVec 4) : FixedBits.Statement (.callR rs n) :=
  (nibbles_and _ _ _ _ 0xF#4 0xF#4 0x0#4 0x0#4).trans (by simp; rfl)

theorem FixedBits.ret : FixedBits.Statement (.ret) := rfl

theorem FixedBits.callS (a : BitVec 12) : FixedBits.Statement (.callS a) := fixed_opLow12 _ a

theorem FixedBits.blt (d : BitVec 9) : FixedBits.Statement (.blt d) := fixed_branchChar _ d

theorem FixedBits.bge (d : BitVec 9) : FixedBits.Statement (.bge d) := fixed_branchChar _ d

theorem FixedBits.ble (d : BitVec 9) : FixedBits.Statement (.ble d) := fixed_branchChar _ d

theorem FixedBits.bgt (d : BitVec 9) : FixedBits.Statement (.bgt d) := fixed_branchChar _ d

theorem FixedBits.bltu (d : BitVec 9) : FixedBits.Statement (.bltu d) := fixed_branchChar _ d

theorem FixedBits.bgeu (d : BitVec 9) : FixedBits.Statement (.bgeu d) := fixed_branchChar _ d

theorem FixedBits.bleu (d : BitVec 9) : FixedBits.Statement (.bleu d) := fixed_branchChar _ d

theorem FixedBits.bgtu (d : BitVec 9) : FixedBits.Statement (.bgtu d) := fixed_branchChar _ d

theorem FixedBits.beq (d : BitVec 9) : FixedBits.Statement (.beq d) := fixed_branchChar _ d

theorem FixedBits.bne (d : BitVec 9) : FixedBits.Statement (.bne d) := fixed_branchChar _ d

theorem FixedBits.bmi (d : BitVec 9) : FixedBits.Statement (.bmi d) := fixed_branchChar _ d

theorem FixedBits.bpl (d : BitVec 9) : FixedBits.Statement (.bpl d) := fixed_branchChar _ d

theorem FixedBits.bra (d : BitVec 9) : FixedBits.Statement (.bra d) := fixed_branchChar _ d

theorem FixedBits.bsr (d : BitVec 9) : FixedBits.Statement (.bsr d) := fixed_branchChar _ d

theorem FixedBits.callPc (d : BitVec 9) : FixedBits.Statement (.callPc d) := fixed_branchChar _ d

theorem FixedBits.sb (rd : RegNo) (rs : RegNo) (n : BitVec 4) :
    FixedBits.Statement (.sb rd rs n) :=
  (nibbles_and _ _ _ _ 0xF#4 0x0#4 0x0#4 0x0#4).trans (by simp; rfl)

theorem FixedBits.sc (rd : RegNo) (rs : RegNo) (d : BitVec 3) :
    FixedBits.Statement (.sc rd rs d) := fixed_rrd3 _ rd rs d _

theorem FixedBits.sw (rd : RegNo) (rs : RegNo) (d : BitVec 3) :
    FixedBits.Statement (.sw rd rs d) := fixed_rrd3 _ rd rs d _

theorem FixedBits.lb (rd : RegNo) (rs : RegNo) (n : BitVec 4) :
    FixedBits.Statement (.lb rd rs n) :=
  (nibbles_and _ _ _ _ 0xF#4 0x0#4 0x0#4 0x0#4).trans (by simp; rfl)

theorem FixedBits.lc (rd : RegNo) (rs : RegNo) (d : BitVec 3) :
    FixedBits.Statement (.lc rd rs d) := fixed_rrd3 _ rd rs d _

theorem FixedBits.lw (rd : RegNo) (rs : RegNo) (d : BitVec 3) :
    FixedBits.Statement (.lw rd rs d) := fixed_rrd3 _ rd rs d _

end Sys2Proof.Laws
end

