-- ==== Sys2Proof/Tests/Slice0.lean ====
section
/-! SUPPORT. Tests. The words are written out from the encoding tables of 30_encoding.md; the start and
end states are rows of 95_test_vectors.md or are worked out by hand from the rule cited; none comes
from the model. Behind them, for each statement with hypotheses, a state and operands that meet
them. -/

namespace Sys2Proof.Tests
open Sys2Proof Sys2Proof.Machine

/-! ## Helpers -/

/-- The default machine with pc, SR and some registers given, and one character at the pc. -/
def stateAt (pc : Word) (sr : BitVec 16) (regs : List (Nat × Word)) (w : Nat) : State :=
  { State.reset with
    pc := pc
    sr := sr
    regs := regs.foldl (fun r (p : Nat × Word) => r.setIfInBounds p.1 p.2)
      State.reset.regs }.withFetchWord 16 w

/-- The state with bytes stored from an address on. -/
def storing (s : State) (a : Word) (bytes : List Byte) : State :=
  { s with
    mem := (bytes.foldl (fun p b => (Memory.write p.1 p.2 b, p.2 + 1)) (s.mem, a.toNat)).1 }

/-- The state under another configuration. -/
def under (s : State) (cfg : Config) : State := { s with cfg := cfg }

/-- The step answers a next state, and it meets the test. -/
def after (s : State) (p : State → Bool) : Bool :=
  match step s with
  | .next t => p t
  | _ => false

/-- The step is refused, with this reason. -/
def refusal (s : State) : Option Refusal :=
  match step s with
  | .refused r => some r
  | _ => none

def notBorrowConfig : Config := { Config.default with subCarrySense := .notBorrow }
def rotateConfig : Config := { Config.default with rotateThroughCarry := true }
def bigConfig : Config := { Config.default with byteOrder := .big }
def w16Config : Config := { Config.default with xlen := .w16 }
def writersConfig : Config := { Config.default with externalWriters := true }
/-- ROM below 0x2000, RAM from there to 0x2FFF, nothing above. -/
def romConfig : Config :=
  { Config.default with memMap := [⟨0, 0x2000, false⟩, ⟨0x2000, 0x1000, true⟩] }

/-! ## WellFormed (D5, D6) -/

theorem test_ri_without_encoding :
    WellFormed { Config.default with riEncoding := none } .ri = false := by decide
/-- 0x0022 is END's. -/
theorem test_ri_on_another_character :
    WellFormed { Config.default with riEncoding := some 0x0022#16 } .ri = false := by decide
/-- 0x1012 is not of format misc. -/
theorem test_ri_outside_misc :
    WellFormed { Config.default with riEncoding := some 0x1012#16 } .ri = false := by decide
theorem test_short_call_without_opcode :
    WellFormed { Config.default with shortCallOp4 := none } (.callS 0x234#12) = false := by decide
/-- Major opcode 1 is ADD immediate's. -/
theorem test_short_call_on_another_opcode :
    WellFormed { Config.default with shortCallOp4 := some 0x1#4 } (.callS 0x234#12) = false := by
  decide
theorem test_default_encodes_both :
    (WellFormed Config.default .ri && WellFormed Config.default (.callS 0x234#12)) = true := by
  decide

/-! ## Decoding: every constructor, words from R110 to R114 -/

theorem test_decode_misc :
    [0x0000, 0x0001, 0x000B, 0x000C, 0x000D, 0x000E, 0x000F, 0x0010, 0x0011, 0x0012, 0x0020,
      0x0021, 0x0022, 0x0040, 0x004E].map (decodeTableWord 16) =
    [some .brk, some .sys, some .trc, some .dbg, some .irq, some .nmi, some .reset, some .ei,
      some .di, some .ri, some .nop, some .stop, some .endMark, some (.rti 0x0#4),
      some (.rti 0xE#4)] := by decide

theorem test_decode_rr :
    [0x2120, 0x2121, 0x2122, 0x2123, 0x2124, 0x2125, 0x2126, 0x212D, 0x210E, 0x211E, 0x212E,
      0x213E].map (decodeTableWord 16) =
    [some (.addR 1 2), some (.adcR 1 2), some (.subR 1 2), some (.sbcR 1 2), some (.xorR 1 2),
      some (.andR 1 2), some (.orR 1 2), some (.cmpR 1 2), some (.zxb 1), some (.zxc 1),
      some (.sxb 1), some (.sxc 1)] := by decide

theorem test_decode_rc :
    [0x3215, 0x312A, 0x3230, 0x3141, 0x3153, 0x3168, 0x3181, 0x3191, 0x31A1, 0x31B1, 0x31C1,
      0x31E3, 0x31F1].map (decodeTableWord 16) =
    [some (.adcI 2 5), some (.subrI 1 10), some (.sbcI 2 0), some (.xorI 1 1), some (.andI 1 3),
      some (.orI 1 8), some (.shl 1), some (.rol 1), some (.shr 1), some (.asr 1), some (.ror 1),
      some (.tsr 1 .ver), some (.trs 1 .ilr)] := by decide

theorem test_decode_constants_and_calls :
    [0x1125, 0x4123, 0x5F67, 0x8F3C, 0x9234].map (decodeTableWord 16) =
    [some (.addI 1 2 5), some (.cp0 0x123), some (.cp1 0xF67), some (.jal 15 3 12),
      some (.callS 0x234)] := by decide

theorem test_decode_branches :
    [0xA004, 0xA104, 0xA204, 0xA304, 0xA404, 0xA504, 0xA602, 0xA702, 0xB8FE, 0xB9FD, 0xAA01,
      0xAB01, 0xBE00, 0xAF02].map (decodeTableWord 16) =
    [some (.blt 4), some (.bge 4), some (.ble 4), some (.bgt 4), some (.bltu 4), some (.bgeu 4),
      some (.bleu 2), some (.bgtu 2), some (.beq 0x1FE), some (.bne 0x1FD), some (.bmi 1),
      some (.bpl 1), some (.bra 0x100), some (.bsr 2)] := by decide

theorem test_decode_memory :
    [0xC123, 0xD12E, 0xD12D, 0xE321, 0xF422, 0xF521].map (decodeTableWord 16) =
    [some (.sb 1 2 3), some (.sc 1 2 7), some (.sw 1 2 6), some (.lb 3 2 1), some (.lc 4 2 1),
      some (.lw 5 2 0)] := by decide

/-- The rows of R118: their characters are those of the core instruction. -/
theorem test_other_spellings :
    [(.lea 1 14 8, 0x11E8#16, .addI 1 14 8), (.subI 1 2 0xD, 0x112D#16, .addI 1 2 0xD),
      (.cmpI 2 0xF, 0x102F#16, .addI 0 2 0xF), (.negR 1, 0x3120#16, .subrI 1 0),
      (.notR 1, 0x314F#16, .xorI 1 0xF), (.jmp 3 4, 0x8034#16, .jal 0 3 4),
      (.callR 3 0xC, 0x8F3C#16, .jal 15 3 0xC), (.ret, 0x80F0#16, .jal 0 15 0),
      (.callPc 2, 0xAF02#16, .bsr 2)].all (fun (p : Instr × Char16 × Instr) =>
        encode Config.default p.1 == p.2.1 &&
          decide (decodeTableWord 16 p.2.1.toNat = some p.2.2)) = true := by decide

/-- One character of each row of R115. -/
theorem test_reserved_characters :
    [0x0005, 0x0013, 0x0023, 0x0030, 0x0050, 0x0100, 0x6000, 0x7FFF, 0x2127, 0x212F, 0x214E,
      0x3100, 0x3170, 0x31D0, 0x3182, 0x31E2, 0x31F4, 0xAC00, 0xBD00].all
      (fun w => decide (decodeTableWord 16 w = none)) = true := by decide

/-! ## Arithmetic (95_test_vectors.md 2.1) -/

theorem test_add_registers_overflow :
    after (stateAt 0x1000 0 [(1, 0x7FFFFFFF), (2, 1)] 0x2120)
      (fun t => t.readReg 1 == 0x80000000 && t.sr == 0x000C) = true := by decide
theorem test_add_registers_carry_and_overflow :
    after (stateAt 0x1000 0 [(1, 0x80000000), (2, 0x80000000)] 0x2120)
      (fun t => t.readReg 1 == 0 && t.sr == 0x0007) = true := by decide
theorem test_add_constant_rewrites_flags :
    after (stateAt 0x1000 0x000F [(2, 10)] 0x1125)
      (fun t => t.readReg 1 == 15 && t.sr == 0 && t.pc == 0x1002) = true := by decide
theorem test_add_negative_constant :
    after (stateAt 0x1000 0 [(2, 4)] 0x112C)
      (fun t => t.readReg 1 == 0 && t.sr == 0x0003) = true := by decide
theorem test_lea :
    after (stateAt 0x1000 0 [(14, 0x1000)] 0x11E8)
      (fun t => t.readReg 1 == 0x1008 && t.sr == 0) = true := by decide
theorem test_sub_constant :
    after (stateAt 0x1000 0 [(2, 10)] 0x112D)
      (fun t => t.readReg 1 == 7 && t.sr == 0x0002) = true := by decide
theorem test_cmp_constant :
    after (stateAt 0x1000 0 [(2, 5)] 0x102F)
      (fun t => t.readReg 0 == 0 && t.readReg 2 == 5 && t.sr == 0x0002) = true := by decide
theorem test_adc_registers :
    after (stateAt 0x1000 0x0002 [(1, 0xFFFFFFFF)] 0x2121)
      (fun t => t.readReg 1 == 0 && t.sr == 0x0003) = true := by decide
theorem test_adc_constant :
    after (stateAt 0x1000 0x0002 [(2, 7)] 0x3210)
      (fun t => t.readReg 2 == 8 && t.sr == 0) = true := by decide
theorem test_sub_registers_borrows :
    after (stateAt 0x1000 0 [(1, 3), (2, 5)] 0x2122)
      (fun t => t.readReg 1 == 0xFFFFFFFE && t.sr == 0x000A) = true := by decide
/-- The same row with SUB_CARRY_SENSE = not_borrow: C is inverted (R11). -/
theorem test_sub_registers_not_borrow :
    after (under (stateAt 0x1000 0 [(1, 3), (2, 5)] 0x2122) notBorrowConfig)
      (fun t => t.readReg 1 == 0xFFFFFFFE && t.sr == 0x0008) = true := by decide
theorem test_sbc_registers :
    after (stateAt 0x1000 0x0002 [(2, 0xFFFFFFFF)] 0x2123)
      (fun t => t.readReg 1 == 0 && t.sr == 0x0003) = true := by decide
theorem test_sbc_constant :
    after (stateAt 0x1000 0x0002 [(2, 5)] 0x3230)
      (fun t => t.readReg 2 == 4 && t.sr == 0) = true := by decide
theorem test_subr :
    after (stateAt 0x1000 0 [(1, 3)] 0x312A)
      (fun t => t.readReg 1 == 7 && t.sr == 0) = true := by decide
theorem test_neg :
    after (stateAt 0x1000 0 [(1, 0x80000000)] 0x3120)
      (fun t => t.readReg 1 == 0x80000000 && t.sr == 0x000E) = true := by decide
theorem test_cmp_registers :
    after (stateAt 0x1000 0 [(1, 0x80000000), (2, 1)] 0x212D)
      (fun t => t.readReg 1 == 0x80000000 && t.sr == 0x0004) = true := by decide
/-- D23: in the sixteen-bit version 0x7FFF + 1 overflows. -/
theorem test_add_registers_sixteen_bits :
    after (under (stateAt 0x1000 0 [(1, 0x7FFF), (2, 1)] 0x2120) w16Config)
      (fun t => t.readReg 1 == 0x8000 && t.sr == 0x000C) = true := by decide

/-! ## Logic and shifts (95_test_vectors.md 2.2, 2.3) -/

theorem test_and_registers :
    after (stateAt 0x1000 0x0006 [(1, 0xF0F0F0F0), (2, 0x0FF00FF0)] 0x2125)
      (fun t => t.readReg 1 == 0x00F000F0 && t.sr == 0x0006) = true := by decide
theorem test_and_constant :
    after (stateAt 0x1000 0 [(1, 0xFF)] 0x3153)
      (fun t => t.readReg 1 == 3 && t.sr == 0) = true := by decide
theorem test_or_registers :
    after (stateAt 0x1000 0 [(1, 0xF0), (2, 0x8000000F)] 0x2126)
      (fun t => t.readReg 1 == 0x800000FF && t.sr == 0x0008) = true := by decide
theorem test_or_constant :
    after (stateAt 0x1000 0 [(1, 0x10)] 0x3168)
      (fun t => t.readReg 1 == 0x18 && t.sr == 0) = true := by decide
theorem test_xor_registers :
    after (stateAt 0x1000 0x0006 [(1, 0x1234)] 0x2114)
      (fun t => t.readReg 1 == 0 && t.sr == 0x0007) = true := by decide
theorem test_xor_constant :
    after (stateAt 0x1000 0 [(1, 6)] 0x3141)
      (fun t => t.readReg 1 == 7 && t.sr == 0) = true := by decide
theorem test_not :
    after (stateAt 0x1000 0 [] 0x314F)
      (fun t => t.readReg 1 == 0xFFFFFFFF && t.sr == 0x0008) = true := by decide
theorem test_zxb :
    after (stateAt 0x1000 0 [(1, 0x12345680)] 0x210E)
      (fun t => t.readReg 1 == 0x80 && t.sr == 0) = true := by decide
theorem test_zxc :
    after (stateAt 0x1000 0 [(1, 0x12348680)] 0x211E)
      (fun t => t.readReg 1 == 0x8680 && t.sr == 0) = true := by decide
theorem test_sxb :
    after (stateAt 0x1000 0 [(1, 0x12345680)] 0x212E)
      (fun t => t.readReg 1 == 0xFFFFFF80 && t.sr == 0x0008) = true := by decide
theorem test_sxc :
    after (stateAt 0x1000 0 [(1, 0x12348680)] 0x213E)
      (fun t => t.readReg 1 == 0xFFFF8680 && t.sr == 0x0008) = true := by decide
theorem test_shl :
    after (stateAt 0x1000 0x0004 [(1, 0xC0000001)] 0x3181)
      (fun t => t.readReg 1 == 0x80000002 && t.sr == 0x000E) = true := by decide
theorem test_shr :
    after (stateAt 0x1000 0 [(1, 0x80000003)] 0x31A1)
      (fun t => t.readReg 1 == 0x40000001 && t.sr == 0x0002) = true := by decide
theorem test_asr :
    after (stateAt 0x1000 0 [(1, 0x80000002)] 0x31B1)
      (fun t => t.readReg 1 == 0xC0000001 && t.sr == 0x0008) = true := by decide
theorem test_rol :
    after (stateAt 0x1000 0 [(1, 0x80000001)] 0x3191)
      (fun t => t.readReg 1 == 3 && t.sr == 0x0002) = true := by decide
theorem test_rol_through_carry :
    after (under (stateAt 0x1000 0x0002 [(1, 0x40000000)] 0x3191) rotateConfig)
      (fun t => t.readReg 1 == 0x80000001) = true := by decide
theorem test_ror :
    after (stateAt 0x1000 0 [(1, 3)] 0x31C1)
      (fun t => t.readReg 1 == 0x80000001 && t.sr == 0x000A) = true := by decide
theorem test_ror_through_carry :
    after (under (stateAt 0x1000 0x0002 [(1, 2)] 0x31C1) rotateConfig)
      (fun t => t.readReg 1 == 0x80000001 && t.sr == 0x0008) = true := by decide
/-- R176. -/
theorem test_shift_nibble :
    refusal (stateAt 0x1000 0 [] 0x3182) = some (.reservedEncoding (.shiftNibble 2)) := by decide

/-! ## Flow control (95_test_vectors.md 2.4) -/

theorem test_bra_backward :
    after (stateAt 0x1000 0 [] 0xBE00) (fun t => t.pc == 0x0E02) = true := by decide
theorem test_bra_forward :
    after (stateAt 0x1000 0 [] 0xAEFF) (fun t => t.pc == 0x1200) = true := by decide
theorem test_beq_taken :
    after (stateAt 0x1000 0x0001 [] 0xB8FE) (fun t => t.pc == 0x0FFE) = true := by decide
theorem test_beq_not_taken :
    after (stateAt 0x1000 0 [] 0xB8FE) (fun t => t.pc == 0x1002) = true := by decide
/-- P1, the branch of its loop: R191. -/
theorem test_bne :
    after (stateAt 0x0108 0 [] 0xB9FD) (fun t => t.pc == 0x0104) = true := by decide
theorem test_blt :
    after (stateAt 0x1000 0x0008 [] 0xA004) (fun t => t.pc == 0x100A) = true := by decide
theorem test_blt_overflow :
    after (stateAt 0x1000 0x000C [] 0xA004) (fun t => t.pc == 0x1002) = true := by decide
/-- R183. -/
theorem test_bge :
    after (stateAt 0x1000 0x000C [] 0xA104) (fun t => t.pc == 0x100A) = true := by decide
/-- R184. -/
theorem test_ble :
    after (stateAt 0x1000 0x0001 [] 0xA204) (fun t => t.pc == 0x100A) = true := by decide
/-- R185. -/
theorem test_bgt :
    after (stateAt 0x1000 0x0001 [] 0xA304) (fun t => t.pc == 0x1002) = true := by decide
/-- R186. -/
theorem test_bltu :
    after (stateAt 0x1000 0x0002 [] 0xA404) (fun t => t.pc == 0x100A) = true := by decide
/-- R187. -/
theorem test_bgeu :
    after (stateAt 0x1000 0x0002 [] 0xA504) (fun t => t.pc == 0x1002) = true := by decide
theorem test_bleu :
    after (stateAt 0x1000 0x0001 [] 0xA602) (fun t => t.pc == 0x1006) = true := by decide
theorem test_bgtu :
    after (stateAt 0x1000 0 [] 0xA702) (fun t => t.pc == 0x1006) = true := by decide
/-- R189 under not_borrow: C set and Z clear. -/
theorem test_bgtu_not_borrow :
    after (under (stateAt 0x1000 0x0002 [] 0xA702) notBorrowConfig)
      (fun t => t.pc == 0x1006) = true := by decide
/-- R192. -/
theorem test_bmi :
    after (stateAt 0x1000 0x0008 [] 0xAA01) (fun t => t.pc == 0x1004) = true := by decide
/-- R193. -/
theorem test_bpl :
    after (stateAt 0x1000 0x0008 [] 0xAB01) (fun t => t.pc == 0x1002) = true := by decide
theorem test_reserved_condition :
    refusal (stateAt 0x1000 0 [] 0xAC00) = some (.reservedEncoding (.conditionReserved 0xC)) := by
  decide
theorem test_bsr :
    after (stateAt 0x0300 0 [] 0xAF02)
      (fun t => t.readReg 15 == 0x0302 && t.pc == 0x0306) = true := by decide
theorem test_jmp :
    after (stateAt 0x1000 0 [(3, 0x4000)] 0x8034)
      (fun t => t.pc == 0x4004 && t.readReg 0 == 0 && t.readReg 15 == 0) = true := by decide
theorem test_call_register :
    after (stateAt 0x0200 0 [(3, 0x4000)] 0x8F3C)
      (fun t => t.readReg 15 == 0x0202 && t.pc == 0x3FFC) = true := by decide
theorem test_jal_same_register :
    after (stateAt 0x0200 0 [(1, 0x4000)] 0x8110)
      (fun t => t.readReg 1 == 0x0202 && t.pc == 0x4000) = true := by decide
theorem test_ret :
    after (stateAt 0x1000 0 [(15, 0x0302)] 0x80F0)
      (fun t => t.readReg 15 == 0x0302 && t.pc == 0x0302) = true := by decide
theorem test_short_call :
    after (stateAt 0x00010100 0 [] 0x9234)
      (fun t => t.readReg 15 == 0x00010102 && t.pc == 0x00012340) = true := by decide
theorem test_short_call_bank_edge :
    refusal (stateAt 0x0001FFFE 0 [] 0x9234) = some (.bankEdgeCall 0x00020000) := by decide
/-- R67, R204. -/
theorem test_odd_pc :
    refusal { stateAt 0x4000 0 [] 0x0020 with pc := 0x4001 } = some (.oddPc 0x4001) := by decide

/-! ## System calls and interrupts (95_test_vectors.md 2.5) -/

theorem test_brk :
    after (stateAt 0x0500 0x0009 [] 0x0000)
      (fun t => t.ilr == 0x0502 && t.sr == 0x0989 && t.pc == 0xFFFFFF80) = true := by decide
theorem test_sys :
    after (stateAt 0x0400 0x0001 [] 0x0001)
      (fun t => t.ilr == 0x0402 && t.sr == 0x0181 && t.pc == 0xFFFFFF88) = true := by decide
theorem test_trc :
    after (stateAt 0x0400 0 [] 0x000B)
      (fun t => t.ilr == 0x0402 && t.sr == 0x0080 && t.pc == 0xFFFFFFD8) = true := by decide
theorem test_dbg :
    after (stateAt 0x0400 0 [] 0x000C)
      (fun t => t.ilr == 0x0402 && t.sr == 0x0080 && t.pc == 0xFFFFFFE0) = true := by decide
theorem test_irq :
    after (stateAt 0x0400 0 [] 0x000D)
      (fun t => t.ilr == 0x0402 && t.sr == 0x0080 && t.pc == 0xFFFFFFE8) = true := by decide
theorem test_irq_masked :
    after (stateAt 0x0400 0x0080 [] 0x000D)
      (fun t => t.ilr == 0 && t.sr == 0x0080 && t.pc == 0x0402) = true := by decide
theorem test_nmi :
    after (stateAt 0x0400 0x0082 [] 0x000E)
      (fun t => t.ilr == 0x0402 && t.sr == 0x8282 && t.pc == 0xFFFFFFF0) = true := by decide
theorem test_reset :
    after (stateAt 0x0400 0x0004 [] 0x000F)
      (fun t => t.ilr == 0x0402 && t.sr == 0x0484 && t.pc == 0xFFFFFFF8) = true := by decide
theorem test_ei : after (stateAt 0x0400 0x0183 [] 0x0010) (fun t => t.sr == 0x0103) = true := by
  decide
theorem test_di : after (stateAt 0x0400 0x0003 [] 0x0011) (fun t => t.sr == 0x0083) = true := by
  decide
theorem test_ri_clears : after (stateAt 0x0400 0x0181 [] 0x0012) (fun t => t.sr == 0x0101) = true := by
  decide
theorem test_ri_sets : after (stateAt 0x0400 0x8101 [] 0x0012) (fun t => t.sr == 0x8181) = true := by
  decide
theorem test_rti :
    after { stateAt 0x1000 0x0180 [] 0x0040 with ilr := 0x0402 }
      (fun t => t.pc == 0x0402 && t.sr == 0x0101) = true := by decide
theorem test_rti_displacement :
    after { stateAt 0x1000 0x8909 [] 0x004E with ilr := 0x0402 }
      (fun t => t.pc == 0x0400 && t.sr == 0x8989) = true := by decide
/-- R281, R284: the return address is the pc of the character not fetched. -/
theorem test_irq_input :
    after { stateAt 0x0400 0x0001 [] 0x0020 with irq := true }
      (fun t => t.ilr == 0x0400 && t.sr == 0x0181 && t.pc == 0xFFFFFFE8) = true := by decide
/-- R283, R285: NMI before IRQ. -/
theorem test_nmi_input_first :
    after { stateAt 0x0400 0 [] 0x0020 with env := [⟨false, true, true, false⟩] }
      (fun t => t.ilr == 0x0400 && t.pc == 0xFFFFFFF0 && !t.nmiPending && t.irq) = true := by
  decide
/-- R282: a prefix holds the IRQ off. -/
theorem test_prefix_holds_irq_off :
    after { stateAt 0x0400 0 [] 0x1105 with irq := true, cpfx := .ready 0 }
      (fun t => t.readReg 1 == 5 && t.pc == 0x0402 && t.irq) = true := by decide
/-- R310. -/
theorem test_rst_input :
    after { stateAt 0x0400 0 [] 0x0020 with env := [⟨true, false, false, false⟩], stopped := true }
      (fun t => t.pc == 0xFFFFFFF8 && !t.stopped && t.cpfx == .none) = true := by decide

/-! ## Memory (95_test_vectors.md 2.6) -/

/-- The memory of section 2.6, with x1, x2 as given there. -/
def dataState (w : Nat) : State :=
  storing (storing (stateAt 0x1000 0x0006 [(1, 0x8234F678), (2, 0x2000)] w)
    0x1FFC [0xEF, 0xBE, 0xAD, 0xDE, 0x78, 0xF6, 0x34, 0x82]) 0x3234 [1, 2, 3, 4]

theorem test_lb :
    after (dataState 0xE321) (fun t => t.readReg 3 == 0xFFFFFFF6 && t.sr == 0x000E) = true := by
  decide
theorem test_lb_into_r0 :
    after (dataState 0xE021) (fun t => t.readReg 0 == 0 && t.sr == 0x000E) = true := by decide
theorem test_lc :
    after (dataState 0xF422) (fun t => t.readReg 4 == 0xFFFF8234 && t.sr == 0x000E) = true := by
  decide
theorem test_lc_backward :
    after (dataState 0xF12E) (fun t => t.readReg 1 == 0xFFFFDEAD) = true := by decide
theorem test_lw :
    after (dataState 0xF12D) (fun t => t.readReg 1 == 0xDEADBEEF && t.sr == 0x000E) = true := by
  decide
theorem test_lw_prefixed :
    after { dataState 0xF125 with cpfx := .ready 0x123 }
      (fun t => t.readReg 1 == 0x04030201 && t.sr == 0x0006) = true := by decide
theorem test_lc_misaligned :
    refusal (stateAt 0x1000 0 [(2, 0x2001)] 0xF120) = some (.misalignedLoad 0x2001) := by decide
theorem test_sb :
    after (dataState 0xC123)
      (fun t => t.readByte 0x2003 == 0x78 && t.readByte 0x2002 == 0x34 && t.sr == 0x0006) = true := by
  decide
theorem test_sc :
    after (dataState 0xD12E)
      (fun t => t.readByte 0x1FFE == 0x78 && t.readByte 0x1FFF == 0xF6 && t.sr == 0x0006) = true := by
  decide
theorem test_sw :
    after (dataState 0xD125)
      (fun t => t.wordAt 0x2004 == 0x8234F678 && t.readByte 0x2004 == 0x78 &&
        t.readByte 0x2007 == 0x82) = true := by decide
/-- The big-endian line of section 2.6: SW gives 82 34 F6 78. -/
theorem test_sw_big_endian :
    after ((under (stateAt 0x1000 0 [(1, 0x8234F678), (2, 0x2000)] 0) bigConfig).withFetchWord 16
        0xD121)
      (fun t => t.readByte 0x2000 == 0x82 && t.readByte 0x2001 == 0x34 &&
        t.readByte 0x2002 == 0xF6 && t.readByte 0x2003 == 0x78) = true := by decide
/-- R80: SC to the character behind it. -/
theorem test_stale_fetch :
    after (stateAt 0x1000 0 [(2, 0x1002)] 0xD120) (fun t => t.stale) = true ∧
    refusal { stateAt 0x1002 0 [] 0x0020 with stale := true } = some (.staleFetch 0x1002) := by
  decide
/-- R80: an NMI between the store and the next fetch does not lift the refusal; here the handler's first
character is the very one that the store at 0xFFFFFFEE wrote. -/
theorem test_stale_fetch_behind_nmi :
    after { stateAt 0xFFFFFFF0 0 [] 0x0020 with
        stale := true, env := [⟨false, true, false, false⟩] }
      (fun t => t.stale && t.pc == 0xFFFFFFF0 &&
        refusal t == some (.staleFetch 0xFFFFFFF0)) = true := by decide
/-- R62. -/
theorem test_store_to_rom :
    refusal (under (stateAt 0x1000 0 [(2, 0x1800)] 0xC120) romConfig) =
      some (.romStore 0x1800) := by decide
theorem test_load_unpopulated :
    refusal (under (stateAt 0x1000 0 [(2, 0x3000)] 0xE120) romConfig) =
      some (.unpopulated 0x3000) := by decide

/-! ## Prefix, special registers, miscellaneous (95_test_vectors.md 2.7) -/

theorem test_cp0 :
    after (stateAt 0x1000 0 [] 0x4FFF)
      (fun t => t.cpfx == .ready 0xFFFFFFF && t.pc == 0x1002) = true := by decide
theorem test_cp0_then_add :
    after { stateAt 0x1002 0 [] 0x1104 with cpfx := .ready 0x123 }
      (fun t => t.readReg 1 == 0x1234 && t.cpfx == .none) = true := by decide
theorem test_cp1 :
    after (stateAt 0x1000 0 [] 0x5F67) (fun t => t.cpfx == .half 0xF67) = true := by decide
theorem test_cp1_constant_character :
    after { stateAt 0x1002 0 [] 0x8234 with cpfx := .half 0xF67 }
      (fun t => t.cpfx == .ready 0x8234F67 && t.pc == 0x1004) = true := by decide
theorem test_raw_nibble_behind_prefix :
    after { stateAt 0x1002 0 [] 0x110F with cpfx := .ready 0 }
      (fun t => t.readReg 1 == 0xF) = true := by decide
theorem test_prefixed_nop :
    refusal { stateAt 0x1002 0 [] 0x0020 with cpfx := .ready 0 } = some .prefixedNonConstant := by
  decide
theorem test_prefixed_cp :
    refusal { stateAt 0x1002 0 [] 0x4000 with cpfx := .ready 0 } = some .prefixAfterPrefix := by
  decide
theorem test_tsr_sr :
    after (stateAt 0x1000 0x0189 [] 0x31E0)
      (fun t => t.readReg 1 == 0x0189 && t.sr == 0x0189) = true := by decide
theorem test_tsr_ver :
    after (stateAt 0x1000 0 [] 0x31E3) (fun t => t.readReg 1 == 0x01000100) = true := by decide
theorem test_trs_sr :
    after (stateAt 0x1000 0 [(1, 0xFFFFFFFF)] 0x31F0) (fun t => t.sr == 0x8F8F) = true := by decide
theorem test_trs_ilr :
    after (stateAt 0x1000 0 [(1, 0x0402)] 0x31F1) (fun t => t.ilr == 0x0402) = true := by decide
theorem test_nop : after (stateAt 0x1000 0x000F [] 0x0020)
    (fun t => t.pc == 0x1002 && t.sr == 0x000F) = true := by decide
theorem test_end : after (stateAt 0x1000 0x000F [] 0x0022)
    (fun t => t.pc == 0x1002 && t.sr == 0x000F) = true := by decide
theorem test_stop :
    after (stateAt 0x010A 0 [] 0x0021) (fun t => t.pc == 0x010C && t.stopped) = true := by decide
/-- R253: `irq` does not wake a stopped core, `go` does. -/
theorem test_stopped :
    after { stateAt 0x010C 0 [] 0x0020 with stopped := true, irq := true }
      (fun t => t.stopped && t.pc == 0x010C) = true ∧
    after { stateAt 0x010C 0 [] 0x0020 with
        stopped := true, env := [⟨false, false, false, true⟩] }
      (fun t => !t.stopped && t.pc == 0x010C) = true := by decide

/-- `withFetchWord` puts its instruction where reset fetches: the first step runs it. -/
theorem test_first_instruction_after_reset :
    after (State.reset.withFetchWord 16 0x110B)
      (fun t => t.readReg 1 == 11 && t.pc == 0xFFFFFFFA) = true := by decide

/-! ## Witnesses: the hypotheses of each statement can be met -/

/-- A state that meets the invariant, with ADD r1,r2 at its pc. -/
def plain : State := stateAt 0x1000 0 [(1, 3), (2, 0x2000)] 0x2120

/-- The same state under another prefix state. -/
def prefixedBy (p : Cpfx) : State := { plain with cpfx := p }

theorem witness_Inv (s : State) (h : decide (Memory.wf s.mem = true ∧
      (∀ c ∈ s.mem, c.1 < 2 ^ s.cfg.xlen.bits) ∧ s.regs[0] = 0x00000000#32 ∧
      (∀ q : RegNo, s.fit (s.readReg q) = s.readReg q) ∧ s.fit s.pc = s.pc ∧ s.fit s.ilr = s.ilr ∧
      s.sr &&& 0x7070#16 = 0x0000#16 ∧ s.cpfx = .none ∧ s.stale = false) = true) : s.Inv := by
  obtain ⟨h1, h2, h3, h4, h5, h6, h7, h8, h9⟩ := of_decide_eq_true h
  exact ⟨h1, h2, h3, h4, h5, h6, h7, fun _ => h8, fun h => by simp [h9] at h,
    fun c h => by simp [h8] at h⟩

theorem witness_StepKeepsInvariant : plain.Inv ∧ ∃ t, step plain = .next t :=
  ⟨witness_Inv _ (by decide), _, rfl⟩

theorem witness_StepKeepsConfiguration : ∃ t, step plain = .next t := ⟨_, rfl⟩

theorem witness_HardwareResetStep :
    { plain with env := [⟨true, false, false, false⟩] }.inputsNow.rst = true := by decide

theorem witness_DecodeOfEncode : WellFormed Config.default (.callS 0xFFF#12) = true ∧
    WellFormed Config.default .ri = true ∧ WellFormed Config.default (.lw 15 15 7) = true := by
  decide

theorem witness_EncodeOfDecode :
    decodeChar Config.default 0xFFFF#16 = .ok (.lw 0xF#4 0xF#4 0x7#3) := by decide

theorem witness_Quiet (s : State) (h : decide (s.inputsNow.rst = false ∧ s.stopped = false ∧
      (s.cpfx = .none → s.sample.nmiPending = false ∧
        (s.inputsNow.irq = false ∨ s.flagI = true))) = true) : s.Quiet := by
  obtain ⟨h1, h2, h3⟩ := of_decide_eq_true h
  exact ⟨h1, h2, h3⟩

theorem witness_Fetchable (s : State) (h : decide (isOdd s.pc = false ∧ s.stale = false ∧
      ∀ k : Nat, k < 2 → s.populated (s.fit (s.pc + BitVec.ofNat 32 k)) = true) = true) : s.Fetchable := by
  obtain ⟨h1, h2, h3⟩ := of_decide_eq_true h
  exact ⟨h1, h2, h3⟩

/-- 0x000A is the last reserved vector; the other ends of the ranges are characters too. -/
theorem witness_ReservedCharactersRefused :
    let s := stateAt 0x1000 0 [] 0x000A
    s.cfg = Config.default ∧ s.Quiet ∧ s.Fetchable ∧ (∀ c, s.cpfx ≠ .half c) ∧
      (s.sample.turn.charAt s.pc).toNat = 0x000A ∧
      { Config.default with shortCallOp4 := none }.shortCallOp4 = none ∧
      { Config.default with riEncoding := none }.riEncoding = none :=
  ⟨by decide, witness_Quiet _ (by decide), witness_Fetchable _ (by decide),
    fun c h => Cpfx.noConfusion h, by decide, rfl, rfl⟩

theorem witness_StepRunsDecodedInstruction :
    plain.Quiet ∧ plain.Fetchable ∧ (∀ c, plain.cpfx ≠ .half c) ∧
      decodeBytes plain.cfg [plain.sample.turn.readByte plain.pc,
        plain.sample.turn.readByte (plain.fit (plain.pc + 1))] = .ok (.addR 1 2, []) :=
  ⟨witness_Quiet _ (by decide), witness_Fetchable _ (by decide),
    fun c h => Cpfx.noConfusion h, by decide⟩

/-- With `irq` high and I set no interrupt is recognised either. -/
theorem witness_StepRunsDecodedInstruction_masked :
    { stateAt 0x1000 0x0080 [] 0x2120 with irq := true }.Quiet := witness_Quiet _ (by decide)

theorem witness_SizeOnePrefixSequence :
    (plain.cfg.xlen = .w32 ∧ plain.cpfx = .none) ∧
    ((prefixedBy (.half 0xFFF)).cpfx = .half 0xFFF ∧ (prefixedBy (.half 0xFFF)).Quiet ∧
      (prefixedBy (.half 0xFFF)).Fetchable) ∧
    (prefixedBy (.ready (0xFFFF#16 ++ 0xFFF#12))).cpfx = .ready (0xFFFF#16 ++ 0xFFF#12) ∧
    ((under plain w16Config).cfg.xlen = .w16 ∧ (under plain w16Config).cpfx = .none) :=
  ⟨by decide, ⟨by decide, witness_Quiet _ (by decide), witness_Fetchable _ (by decide)⟩,
    by decide, by decide⟩

/-- 0x2FFE is the last character the ROM map populates, 0x3000 the first it does not. -/
theorem witness_FetchRefusals :
    ({ plain with pc := 0x1001 }.Quiet ∧ isOdd 0x1001#32 = true) ∧
    ({ plain with stale := true }.Quiet ∧ isOdd plain.pc = false) ∧
    ({ under plain romConfig with pc := 0x3000 }.Quiet ∧
      ¬ { under plain romConfig with pc := 0x3000 }.Populated 0x3000 2 ∧
      { under plain romConfig with pc := 0x2FFE }.Populated 0x2FFE 2) :=
  ⟨⟨witness_Quiet _ (by decide), by decide⟩, ⟨witness_Quiet _ (by decide), by decide⟩,
    witness_Quiet _ (by decide), by simp only [State.Populated]; decide,
    by simp only [State.Populated]; decide⟩

theorem witness_StoppedCoreStep :
    let s (e : Inputs) : State := { plain with stopped := true, env := [e] }
    let nmi : Inputs := ⟨false, true, false, true⟩
    let go : Inputs := ⟨false, false, false, true⟩
    let none : Inputs := ⟨false, false, true, false⟩
    ((s nmi).inputsNow.rst = false ∧ (s nmi).stopped = true ∧ (s nmi).sample.nmiPending = true) ∧
    ((s go).inputsNow.rst = false ∧ (s go).sample.nmiPending = false ∧
      (s go).inputsNow.go = true) ∧
    ((s none).inputsNow.rst = false ∧ (s none).sample.nmiPending = false ∧
      (s none).inputsNow.go = false) := by decide

theorem witness_StoppedForeverWithoutWake :
    let s : State := { plain with stopped := true, irq := true }
    s.stopped = true ∧ s.env = [] ∧ s.nmiPending = false ∧
      (s.cfg.nmiTrigger = .level → s.nmiLine = false) := by decide

theorem witness_HardwareInterruptsTaken :
    let s (nmi irq : Bool) : State := { plain with env := [⟨false, nmi, irq, false⟩] }
    ((s true true).inputsNow.rst = false ∧ (s true true).stopped = false ∧
      (s true true).cpfx = .none ∧ (s true true).sample.nmiPending = true) ∧
    ((s false true).sample.nmiPending = false ∧ (s false true).inputsNow.irq = true ∧
      (s false true).flagI = false) := by decide

/-- Both triggers, and an environment with and without a sample to come. -/
theorem witness_HardwareInterruptsTaken_sampling :
    plain.cfg.nmiTrigger = .edge ∧
    (under plain { Config.default with nmiTrigger := .level }).cfg.nmiTrigger = .level ∧
    plain.env = [] ∧
    { plain with env := [⟨false, true, true, true⟩] }.env = ⟨false, true, true, true⟩ :: [] := by
  decide

/-- R283: a level that stays high is no second edge. -/
theorem test_nmi_edge_once :
    after { plain with nmiLine := true } (fun t => t.pc == 0x1002 && !t.nmiPending) = true := by
  decide

/-- ADD r1,r2,#5 behind a prefix with both inputs high: the step ends with no prefix and the NMI
pending; with `irq` alone, with the IRQ to be recognised. -/
theorem witness_PrefixHoldsOffInterrupts :
    let s (nmi irq : Bool) : State :=
      { stateAt 0x1000 0 [] 0x1125 with cpfx := .ready 0, env := [⟨false, nmi, irq, false⟩] }
    (s true true).cpfx ≠ .none ∧ (s true true).stopped = false ∧
    (s true true).inputsNow.rst = false ∧
    (∃ t, step (s true true) = .next t ∧ t.cpfx = .none ∧ t.inputsNow.rst = false ∧
      t.sample.nmiPending = true) ∧
    (∃ t, step (s false true) = .next t ∧ t.cpfx = .none ∧ t.sample.nmiPending = false ∧
      t.inputsNow.irq = true ∧ t.flagI = false) ∧
    { s true true with env := [⟨true, false, false, false⟩] }.inputsNow.rst = true :=
  ⟨by decide, by decide, by decide, ⟨_, rfl, by decide, by decide, by decide⟩,
    ⟨_, rfl, by decide, by decide, by decide, by decide⟩, by decide⟩

/-- No prefix pending, the hypothesis of every statement about an instruction without a constant, and
a prefix pending, that of `NotPrefixable`. -/
theorem witness_CallsVector_and_NotPrefixable : plain.cpfx = .none ∧
    (prefixedBy (.ready 0xFFFFFFF)).cpfx = .ready 0xFFFFFFF := by decide

/-- Both states of I for IRQ, and of bit 15 for RI. -/
theorem witness_IrqInstruction_and_RestoreInterruptMask :
    (stateAt 0x1000 0x0080 [] 0x000D).flagI = true ∧ (stateAt 0x1000 0 [] 0x000D).flagI = false ∧
    (stateAt 0x1000 0x8000 [] 0x0012).sr.getLsbD 15 = true := by decide

/-- Behind EI a high `irq` is recognised. -/
theorem witness_InterruptMaskInstructions :
    ∃ t, exec .ei { stateAt 0x1000 0x0080 [] 0x0020 with irq := true } = .next t ∧
      t.stopped = false ∧ t.inputsNow.rst = false ∧ t.sample.nmiPending = false ∧
      t.inputsNow.irq = true :=
  ⟨_, rfl, by decide, by decide, by decide, by decide⟩

theorem witness_InterruptMaskInstructions_di : ∃ t, exec .di plain = .next t := ⟨_, rfl⟩

/-- Both clauses of RTI's displacement, at the values where they meet. -/
theorem witness_ReturnFromInterrupt : (0xB#4).toNat ≤ 11 ∧ ¬ (0xC#4).toNat ≤ 11 := by decide

theorem witness_HandlerReturnResumes :
    (plain.cpfx = .none ∧ plain.fit plain.pc = plain.pc ∧ isSystemCall .irq = true ∧
      plain.flagI = false) ∧
    (let s : State := { plain with irq := true }
     s.fit s.pc = s.pc ∧ s.inputsNow.rst = false ∧ s.stopped = false ∧ s.cpfx = .none ∧
      s.sample.nmiPending = false ∧ s.inputsNow.irq = true ∧ s.flagI = false) := by decide

theorem witness_ConstantsAndShortPrefix : plain.cpfx = .none := by decide

theorem witness_PrefixInstruction :
    (plain.cpfx = .none ∧ plain.cfg.xlen = .w32) ∧ (under plain w16Config).cfg.xlen = .w16 ∧
    (prefixedBy (.ready 5)).cpfx = .ready 5 := by decide

theorem witness_PrefixBeforeEveryInstruction :
    takesConstant .nop = false ∧ isPrefix .nop = false ∧ isPrefix (.cp1 0) = true ∧
    takesConstant (.addI 1 2 5) = true ∧
    ∃ t, exec (.addI 1 2 5) (prefixedBy (.ready 0)) = .next t :=
  ⟨by decide, by decide, by decide, by decide, _, rfl⟩

/-- A constant without a prefix and behind one: for AddConstants, ReverseSubtract, JumpAndLink. -/
theorem witness_constants :
    plain.constant 0xF#4 = some 0xFFFFFFFF#32 ∧
    (prefixedBy (.ready 0)).constant 0xF#4 = some 0x0000000F#32 ∧
    plain.fit plain.pc = plain.pc ∧
    (prefixedBy (.ready 0x1)).constant 0x0#4 = some 0x00000010#32 := by decide

theorem witness_RegsFit : plain.RegsFit ∧ (under plain w16Config).RegsFit := by
  constructor <;> (simp only [State.RegsFit]; decide)

theorem witness_AddRegisters_and_SubtractRegisters :
    plain.cpfx = .none ∧ (under plain w16Config).cpfx = .none := by decide

theorem witness_SubtractWithBorrow :
    (plain.cfg.subCarrySense = .borrow ∧ false = plain.flagC) ∧
    (let s := under plain notBorrowConfig
     s.cfg.subCarrySense = .notBorrow ∧ true = !s.flagC) := by decide

/-- k = 5 (behind a prefix), k = 0 and k = 3 (without), and the one k whose negative is itself. -/
theorem witness_ImmediateSubtractAndCompare :
    plain.RegsFit ∧ plain.fit 5 = 5 ∧
    (prefixedBy (.ready 0xFFFFFFF)).constant 0xB#4 = some (plain.fit (-5)) ∧
    plain.constant 0x0#4 = some (plain.fit (-0)) ∧ plain.constant 0xD#4 = some (plain.fit (-3)) ∧
    (prefixedBy (.ready 0x8000000)).constant 0x0#4 = some (plain.fit (-0x80000000#32)) :=
  ⟨witness_RegsFit.1, by decide, by decide, by decide, by decide, by decide⟩

theorem witness_CompareThenBranch : plain.RegsFit ∧ ∃ t, exec (.cmpR 1 2) plain = .next t :=
  ⟨witness_RegsFit.1, _, rfl⟩

theorem witness_DoubleWidthArithmetic :
    plain.cpfx = .none ∧ plain.RegsFit ∧ (1#4 : RegNo) ≠ 0x0#4 ∧ (2#4 : RegNo) ≠ 0x0#4 ∧
      (1#4 : RegNo) ≠ 2#4 ∧ (1#4 : RegNo) ≠ 4#4 ∧
      (under plain notBorrowConfig).cfg.subCarrySense = .notBorrow :=
  ⟨by decide, witness_RegsFit.1, by decide, by decide, by decide, by decide, by decide⟩

theorem witness_LogicalRegisters_and_Constants :
    plain.RegsFit ∧ plain.cpfx = .none ∧ plain.constant 0xF#4 = some 0xFFFFFFFF#32 ∧
      (prefixedBy (.ready 0)).constant 0xF#4 = some 0x0000000F#32 :=
  ⟨witness_RegsFit.1, by decide, by decide, by decide⟩

theorem witness_Extensions : plain.cpfx = .none := by decide

theorem witness_Shifts_and_Rotates : plain.RegsFit ∧ plain.cpfx = .none :=
  ⟨witness_RegsFit.1, by decide⟩

theorem witness_Branches : plain.cpfx = .none ∧ plain.target 0x0FF#9 = 0x000011FE#32 ∧
    plain.target 0x100#9 = 0x00000E00#32 := by decide

theorem witness_RelativeCalls : plain.cpfx = .none ∧ plain.fit plain.pc = plain.pc := by decide

theorem witness_JumpAndLink : plain.fit plain.pc = plain.pc ∧
    plain.constant 0xB#4 = some 0x0000000B#32 ∧ plain.constant 0xC#4 = some 0xFFFFFFFC#32 ∧
    plain.constant 0x0#4 = some 0x00000000#32 ∧ plain.cpfx = .none ∧ plain.RegsFit :=
  ⟨by decide, by decide, by decide, by decide, by decide, witness_RegsFit.1⟩

/-- The last character of a bank and its neighbours, and the sixteen-bit version. -/
theorem witness_ShortCall :
    (Config.default.shortCallOp4 = some 0x9#4) ∧
    (let s (pc : Word) : State := { plain with pc := pc }
     (s 0x0001FFFE).cpfx = .none ∧ (s 0x0001FFFE).fit 0x0001FFFE = 0x0001FFFE ∧
      (s 0x0001FFFE).pc.extractLsb' 0 16 ≠ 0x0000#16 ∧
      (s 0x00020002).pc.extractLsb' 0 16 ≠ 0x0000#16 ∧
      (s 0x00020000).pc.extractLsb' 0 16 = 0x0000#16) ∧
    ((under plain w16Config).cfg.xlen = .w16 ∧
      (under plain w16Config).fit plain.pc = plain.pc) := by decide

/-- Loads at the last populated addresses of the ROM map, r2 holding the address. -/
def romState (a : Word) : State := under (stateAt 0x1000 0 [(1, 3), (2, a)] 0x0020) romConfig

theorem witness_Loads :
    (romState 0x2FFF).cfg.externalWriters = false ∧
    (romState 0x2FFF).constant 0x0#4 = some 0x00000000#32 ∧
    (romState 0x2FFF).Populated ((romState 0x2FFF).ea 2 0) 1 ∧
    (romState 0x2FFE).constant (0x0#3 ++ 0b0#1) = some 0x00000000#32 ∧
    isOdd ((romState 0x2FFF).ea 2 0) = true ∧ isOdd ((romState 0x2FFE).ea 2 0) = false ∧
    (romState 0x2FFE).Populated ((romState 0x2FFE).ea 2 0) 2 ∧
    (romState 0x2FFC).Populated ((romState 0x2FFC).ea 2 0) 4 ∧
    (romState 0x2FFC).cfg.xlen = .w32 ∧ (under plain w16Config).cfg.xlen = .w16 := by
  simp only [State.Populated]
  decide

theorem witness_StoreByte :
    let s := romState 0x2000
    s.constant 0x0#4 = some 0x00000000#32 ∧ s.cfg.externalWriters = false ∧
      Memory.wf s.mem = true ∧ s.Populated (s.ea 2 0) 1 ∧ s.Ram (s.ea 2 0) 1 := by
  simp only [State.Populated, State.Ram]
  decide

theorem witness_StoreCharacterAndWord :
    let s := romState 0x2FFC
    s.constant (0x0#3 ++ 0b0#1) = some 0x00000000#32 ∧ s.cfg.externalWriters = false ∧
      Memory.wf s.mem = true ∧ isOdd (s.ea 2 0) = false ∧ s.cfg.xlen = .w32 ∧
      s.Populated (s.ea 2 0) 2 ∧ s.Ram (s.ea 2 0) 2 ∧
      s.Populated (s.ea 2 0) 4 ∧ s.Ram (s.ea 2 0) 4 ∧
      isOdd ((romState 0x2001).ea 2 0) = true := by
  simp only [State.Populated, State.Ram]
  decide

/-- 0x3000 is not populated, 0x1FFF is ROM; a word at 0x2FFE is populated in half only, one at 0x1FFE
is half ROM, half RAM. -/
theorem witness_PlatformRefusals :
    (¬ (romState 0x3000).Populated ((romState 0x3000).ea 2 0) 1) ∧
    ((romState 0x1FFF).Populated ((romState 0x1FFF).ea 2 0) 1 ∧
      ¬ (romState 0x1FFF).Ram ((romState 0x1FFF).ea 2 0) 1) ∧
    (¬ (romState 0x3000).Populated ((romState 0x3000).ea 2 0) 2) ∧
    ((romState 0x1FFE).Populated ((romState 0x1FFE).ea 2 0) 2 ∧
      ¬ (romState 0x1FFE).Ram ((romState 0x1FFE).ea 2 0) 2) ∧
    (isOdd ((romState 0x2FFE).ea 2 0) = false ∧
      ¬ (romState 0x2FFE).Populated ((romState 0x2FFE).ea 2 0) 4) ∧
    ((romState 0x1FFE).Populated ((romState 0x1FFE).ea 2 0) 4 ∧
      ¬ (romState 0x1FFE).Ram ((romState 0x1FFE).ea 2 0) 4) := by
  simp only [State.Populated, State.Ram]
  decide

theorem witness_StoreThenLoad :
    plain.cpfx = .none ∧ plain.cfg.xlen = .w32 ∧ plain.cfg.externalWriters = false ∧
      Memory.wf plain.mem = true ∧ (4#4 : RegNo) ≠ 0x0#4 ∧
      plain.constant (0x0#3 ++ 0b0#1) = some 0x00000000#32 ∧ isOdd (plain.ea 2 0) = false ∧
      plain.Populated (plain.ea 2 0) 4 ∧ plain.Ram (plain.ea 2 0) 4 ∧
      ∃ t, exec (.sw 1 2 0) plain = .next t ∧ t.readReg 2 = plain.ea 2 0 + BitVec.ofNat 32 0 := by
  simp only [State.Populated, State.Ram]
  exact ⟨by decide, by decide, by decide, by decide, by decide, by decide, by decide, by decide,
    by decide, _, rfl, by decide⟩

/-- Two bursts of another master to come. -/
def sharedState : State :=
  { under plain writersConfig with bus := [[(0x2000, 0x11)], [(0x2002, 0x22)]] }

theorem witness_LoadsBesideAnotherMaster :
    sharedState.cfg.externalWriters = true ∧ Memory.wf sharedState.mem = true ∧
      (3#4 : RegNo) ≠ 0x0#4 ∧ sharedState.constant 0x0#4 = some 0x00000000#32 ∧
      sharedState.constant (0x0#3 ++ 0b0#1) = some 0x00000000#32 ∧
      sharedState.Populated (sharedState.ea 2 0) 1 ∧ isOdd (sharedState.ea 2 0) = false ∧
      sharedState.Populated (sharedState.ea 2 0) 2 ∧
      sharedState.Populated (sharedState.ea 2 0) 4 ∧ sharedState.cfg.xlen = .w32 := by
  simp only [State.Populated]
  decide

theorem witness_StoresBesideAnotherMaster :
    sharedState.cfg.externalWriters = true ∧ Memory.wf sharedState.mem = true ∧
      sharedState.constant 0x0#4 = some 0x00000000#32 ∧ isOdd (sharedState.ea 2 0) = false ∧
      sharedState.Ram (sharedState.ea 2 0) 1 ∧ sharedState.Ram (sharedState.ea 2 0) 2 ∧
      sharedState.Populated (sharedState.ea 2 0) 4 ∧ sharedState.Ram (sharedState.ea 2 0) 4 := by
  simp only [State.Populated, State.Ram]
  decide

theorem witness_NoOperations_and_StopInstruction : plain.cpfx = .none := by decide

theorem witness_SpecialRegisterTransfers :
    plain.cpfx = .none ∧ plain.fit plain.ilr = plain.ilr ∧ plain.cfg.xlen = .w32 ∧
      (under plain w16Config).cfg.xlen = .w16 ∧ plain.cfg.trsSrFullWrite = true ∧
      (under plain { Config.default with trsSrFullWrite := false }).cfg.trsSrFullWrite = false := by
  decide

/-- An instruction with a destination and one without. -/
theorem witness_RegistersChangeOnlyAtDestination :
    (∃ t, exec (.addR 1 2) plain = .next t) ∧ destOf (.addR 1 2) ≠ some 2#4 ∧
      destOf .nop ≠ some 2#4 :=
  ⟨⟨_, rfl⟩, by decide, by decide⟩

theorem witness_StatusChangesOnlyAsTabled :
    (∃ t, exec (.rti 0) plain = .next t) ∧ plain.sr &&& 0x7070#16 = 0x0000#16 ∧
    (let s := under plain { Config.default with trsSrFullWrite := false }
     (∃ t, exec (.trs 1 .sr) s = .next t) ∧ s.cfg.trsSrFullWrite = false) :=
  ⟨⟨_, rfl⟩, by decide, ⟨_, rfl⟩, by decide⟩

theorem witness_OtherStateChangesOnlyAsNamed :
    (∃ t, exec .nop plain = .next t) ∧ isSystemCall .nop = false ∧ isTransfer .nop = false ∧
      isStore .nop = false ∧ isPrefix .nop = false ∧ plain.cfg.externalWriters = false :=
  ⟨⟨_, rfl⟩, by decide, by decide, by decide, by decide, by decide⟩

end Sys2Proof.Tests
end

/-! The frame of a step (00_scope.md R14), for a quiet core: the step is its fetch, and the fetch leads
to the instruction that the bytes at the pc decode to. -/

namespace Sys2Proof.Machine

/-! ## Decoding two bytes -/

/-- Two bytes decode to an instruction exactly when their character does (20_memory.md R63). -/
theorem decodeBytes_pair_eq_ok {cfg : Config} {b0 b1 : Byte} {i : Instr} :
    decodeBytes cfg [b0, b1] = .ok (i, []) ↔
      decodeChar cfg (charOfBytes cfg.byteOrder b0 b1) = .ok i := by
  simp only [decodeBytes]
  cases decodeChar cfg (charOfBytes cfg.byteOrder b0 b1) <;> simp [Except.map]

/-- The fetched character is made of the bytes at the pc behind the other master's turn (20_memory.md
R63, R66). -/
theorem State.fetchedChar_eq_charOfBytes (s : State) :
    s.fetchedChar =
      charOfBytes s.cfg.byteOrder (s.turn.readByte s.pc) (s.turn.readByte (s.fit (s.pc + 1))) :=
  rfl

/-! ## A quiet step is its fetch -/

/-- Behind the sample nothing is recognised: a pending CP holds interrupts off, and without one
`State.Quiet.interrupts` rules out the NMI and the IRQ (60_exceptions.md R281 to R285). -/
theorem State.Quiet.interrupted_sample {s : State} (hq : s.Quiet) : s.sample.interrupted = none := by
  rw [Option.eq_none_iff_forall_ne_some]
  intro t ht
  obtain ⟨hcpfx, hcause⟩ := State.interrupted_some.mp ht
  obtain ⟨hnotPending, hmasked⟩ := hq.interrupts hcpfx
  rcases hcause with ⟨hpending, -⟩ | ⟨-, hirq, hclear, -⟩
  · exact Bool.false_ne_true (hnotPending.symm.trans hpending)
  · rcases hmasked with hlow | hset
    · exact Bool.false_ne_true (hlow.symm.trans hirq)
    · exact Bool.false_ne_true (hclear.symm.trans hset)

theorem State.Quiet.task {s : State} (hq : s.Quiet) : s.task = s.sample.fetchTask := by
  simp [State.task, State.taskOf, hq.rst, hq.running, hq.interrupted_sample]

/-! ## The fetch -/

/-- Sampling the inputs does not touch what a fetch is refused for. -/
theorem State.Fetchable.fetchRefusal_sample {s : State} (hf : s.Fetchable) :
    s.sample.fetchRefusal = none :=
  State.fetchRefusal_none.mpr ⟨hf.even, hf.fresh, hf.populated⟩

theorem State.fetched_sample (s : State) : s.sample.fetched = s.behindFetch := rfl

/-- With no constant character due, a fetched character that decodes is run behind its fetch. -/
theorem State.fetchTask_eq_run {s : State} {i : Instr} (hr : s.fetchRefusal = none)
    (hc : ∀ c, s.cpfx ≠ .half c) (hd : decodeChar s.cfg s.fetchedChar = .ok i) :
    s.fetchTask = .run i s.fetched := by
  rcases State.fetchTask_cases hr with ⟨c, hhalf, -⟩ | ⟨-, ⟨j, hj, htask⟩ | ⟨e, he, -⟩⟩
  · exact absurd hhalf (hc c)
  · obtain rfl : i = j := Except.ok.inj (hd.symm.trans hj)
    exact htask
  · exact absurd (hd.symm.trans he) nofun

theorem step_of_task_run {s t : State} {i : Instr} (h : s.task = .run i t) : step s = exec i t := by
  simp [step, h]

/-- Settles O10: a quiet step is the fetch of the sampled state, and that fetch runs the instruction. -/
theorem stepRunsDecodedInstruction : Obligations.StepRunsDecodedInstruction := by
  intro s i hquiet hfetch hcpfx hbytes
  have hdecode : decodeChar s.sample.cfg s.sample.fetchedChar = .ok i := by
    rw [State.fetchedChar_eq_charOfBytes]
    exact decodeBytes_pair_eq_ok.mp hbytes
  have htask : s.task = .run i s.behindFetch := by
    rw [hquiet.task, ← s.fetched_sample]
    exact State.fetchTask_eq_run hfetch.fetchRefusal_sample hcpfx hdecode
  exact step_of_task_run htask

end Sys2Proof.Machine

/-! What an instruction that completes does to the state. -/

namespace Sys2Proof.Machine

/-! ## Memory accesses -/

/-- The states an instruction can make of `s` by its memory transfers: turns of another bus master,
and, for a store, bytes written at addresses of W bits. -/
inductive Accessed (i : Instr) (s : State) : State → Prop
  | start : Accessed i s s
  | turn {u : State} (h : Accessed i s u) : Accessed i s u.turn
  | byte {u : State} (a : Word) (b : Byte) (hstore : isStore i = true) (ha : s.fit a = a)
      (h : Accessed i s u) : Accessed i s (u.writeByte a b)

/-- Transfers touch nothing but memory and the other master's bursts. -/
theorem Accessed.eq_with {i : Instr} {s u : State} (h : Accessed i s u) :
    ∃ m b, u = { s with mem := m, bus := b } := by
  induction h with
  | start => exact ⟨s.mem, s.bus, rfl⟩
  | turn _ ih =>
    obtain ⟨m, b, rfl⟩ := ih
    exact ⟨_, _, rfl⟩
  | byte _ _ _ _ _ ih =>
    obtain ⟨m, b, rfl⟩ := ih
    exact ⟨_, _, rfl⟩

/-- Without another bus master only a store changes memory (20_memory.md R60). -/
theorem Accessed.eq_self {i : Instr} {s u : State} (h : Accessed i s u) (hstore : isStore i = false)
    (hext : s.cfg.externalWriters = false) : u = s := by
  induction h with
  | start => rfl
  | turn _ ih => rw [ih, State.turn_eq hext]
  | byte _ _ hs _ _ _ => exact absurd (hs.symm.trans hstore) nofun

/-- A character is two bytes, the second at the next address modulo 2^W (20_memory.md R63). -/
theorem Accessed.char {i : Instr} {s u : State} {a : Word} (c : Char16) (hstore : isStore i = true)
    (ha : s.fit a = a) (h : Accessed i s u) : Accessed i s (u.writeChar a c) := by
  have hnext : s.fit (u.offset a 1) = u.offset a 1 := by
    obtain ⟨m, b, rfl⟩ := h.eq_with
    exact s.fit_fit _
  exact .byte (u.offset a 1) _ hstore hnext (.byte a _ hstore ha h)

/-! ## What an instruction does -/

/-- What the instruction `i` can make of `s`, where no CP is pending any more: one constructor for each
shape of result, with what it takes for an instruction to have a result of that shape. A register
that need not be the destination is r0, whose write is discarded. -/
inductive Effect (i : Instr) (s : State) : State → Prop
  /-- Nothing: NOP, END, a branch not taken, the masked IRQ, TRS to VER. -/
  | same : Effect i s s
  /-- A register and the flags of the table, for a load behind its transfers. -/
  | data {u : State} {rd : RegNo} {mask : BitVec 16} (v : Word) (bits : BitVec 16)
      (hu : Accessed i s u) (hrd : destOf i = some rd ∨ rd = 0x0#4)
      (hmask : srMaskOf i = mask) (hdefined : mask &&& 0x8F8F#16 = mask) :
      Effect i s ((u.writeReg rd v).maskSr mask bits)
  /-- A register: TSR. -/
  | move {rd : RegNo} (v : Word) (hrd : destOf i = some rd) : Effect i s (s.writeReg rd v)
  /-- The pc and a link register: branches taken, jumps and calls. -/
  | jump {rd : RegNo} (p : Word) (hrd : destOf i = some rd ∨ rd = 0x0#4)
      (hi : isTransfer i = true) : Effect i s ((s.writeReg rd s.pc).jump p)
  /-- The entry into a system call. -/
  | sysCall (v : BitVec 4) (hi : isSystemCall i = true) : Effect i s (s.sysCall v s.pc)
  /-- The return from one. -/
  | sysReturn (n : BitVec 4) (d : Word) (hi : i = .rti n) : Effect i s (s.sysReturn d)
  /-- A special register: TRS. -/
  | special (rd : RegNo) (spr : Spr) (v : Word) (hi : i = .trs rd spr) :
      Effect i s (s.writeSpr spr v)
  /-- Memory and the note for the next fetch. -/
  | store {u : State} (b : Bool) (hi : isStore i = true) (hu : Accessed i s u) :
      Effect i s (u.noteStale b)
  /-- The stopped flag. -/
  | stop (hi : i = .stop) : Effect i s { s with stopped := true }
  /-- The constant bits of a CP; half of them in the thirty-two bit version alone (D23). -/
  | cpfx (p : Cpfx) (hi : isPrefix i = true) (hp : ∀ c, p = .half c → s.cfg.xlen = .w32) :
      Effect i s { s with cpfx := p }

namespace Effect

variable {i : Instr} {s t u : State} {rd : RegNo}

theorem writeAlu (o : AluOut) (hrd : destOf i = some rd ∨ rd = 0x0#4)
    (hmask : srMaskOf i = 0x000F#16) : Effect i s (s.writeAlu rd o) :=
  .data _ _ .start hrd hmask rfl

theorem writeNZ (r : Word) (hu : Accessed i s u) (hrd : destOf i = some rd)
    (hmask : srMaskOf i = 0x0009#16) : Effect i s (u.writeNZ rd r) :=
  .data _ _ hu (.inl hrd) hmask rfl

theorem writeNCZ (r : Word) (c : Bool) (hrd : destOf i = some rd)
    (hmask : srMaskOf i = 0x000B#16) : Effect i s (s.writeNCZ rd r c) :=
  .data _ _ .start (.inl hrd) hmask rfl

/-- Setting I alone is a write of flags with no register. -/
theorem setI (b : Bool) (hmask : srMaskOf i = 0x0080#16) : Effect i s (s.setI b) :=
  .data (rd := 0x0#4) 0x00000000#32 _ .start (.inr rfl) hmask rfl

/-- A branch jumps, with no link register, or does nothing. -/
theorem branchIf (b : Bool) (d : BitVec 9) (hi : isTransfer i = true) :
    Effect i s (s.branchIf b d) := by
  cases b with
  | false => exact .same
  | true => exact .jump (rd := 0x0#4) _ (.inr rfl) hi

/-! The two gates: an instruction that completes has gone through its gate, and behind it no CP is
pending. -/

theorem of_withoutPrefix {k : Out} (h : s.withoutPrefix k = .next t)
    (he : k = .next t → Effect i s t) : Effect i s.clearCpfx t := by
  obtain ⟨hc, hk⟩ := State.withoutPrefix_next.mp h
  rw [State.clearCpfx_of s hc]
  exact he hk

theorem of_withoutPrefix_next (h : s.withoutPrefix (.next u) = .next t) (he : Effect i s u) :
    Effect i s.clearCpfx t :=
  of_withoutPrefix h fun hk => Host.Outcome.next.inj hk ▸ he

theorem of_withConstant {raw : BitVec 4} {k : Word → State → Out}
    (h : s.withConstant raw k = .next t)
    (he : ∀ imm, k imm s.clearCpfx = .next t → Effect i s.clearCpfx t) : Effect i s.clearCpfx t := by
  obtain ⟨imm, -, hk⟩ := State.withConstant_next.mp h
  exact he imm hk

theorem of_withConstant_next {raw : BitVec 4} {f : Word → State → State}
    (h : s.withConstant raw (fun imm u => .next (f imm u)) = .next t)
    (he : ∀ imm, Effect i s.clearCpfx (f imm s.clearCpfx)) : Effect i s.clearCpfx t :=
  of_withConstant h fun imm hk => Host.Outcome.next.inj hk ▸ he imm

end Effect

/-! ## The loads and stores -/

section LoadsAndStores

variable {s t : State} {rd rs : RegNo} {n : BitVec 4} {d : BitVec 3}

theorem lb_effect (h : exec (.lb rd rs n) s = .next t) : Effect (.lb rd rs n) s.clearCpfx t := by
  simp only [exec, execLb] at h
  refine Effect.of_withConstant h fun imm hk => ?_
  split at hk
  · cases hk
  · exact Host.Outcome.next.inj hk ▸ .writeNZ _ (.turn .start) rfl rfl

theorem lc_effect (h : exec (.lc rd rs d) s = .next t) : Effect (.lc rd rs d) s.clearCpfx t := by
  simp only [exec, execLc] at h
  refine Effect.of_withConstant h fun imm hk => ?_
  split at hk
  · cases hk
  · exact Host.Outcome.next.inj hk ▸ .writeNZ _ (.turn .start) rfl rfl

theorem lw_effect (h : exec (.lw rd rs d) s = .next t) : Effect (.lw rd rs d) s.clearCpfx t := by
  simp only [exec, execLw] at h
  refine Effect.of_withConstant h fun imm hk => ?_
  split at hk
  · cases hk
  · split at hk
    · cases hk
    · exact Host.Outcome.next.inj hk ▸ .writeNZ _ (.turn (.turn .start)) rfl rfl

theorem sb_effect (h : exec (.sb rd rs n) s = .next t) : Effect (.sb rd rs n) s.clearCpfx t := by
  simp only [exec, execSb] at h
  refine Effect.of_withConstant h fun imm hk => ?_
  split at hk
  · cases hk
  · exact Host.Outcome.next.inj hk ▸
      .store _ rfl (.byte _ _ rfl (s.fit_fit _) (.turn .start))

theorem sc_effect (h : exec (.sc rd rs d) s = .next t) : Effect (.sc rd rs d) s.clearCpfx t := by
  simp only [exec, execSc] at h
  refine Effect.of_withConstant h fun imm hk => ?_
  split at hk
  · cases hk
  · exact Host.Outcome.next.inj hk ▸ .store _ rfl (.char _ rfl (s.fit_fit _) (.turn .start))

theorem sw_effect (h : exec (.sw rd rs d) s = .next t) : Effect (.sw rd rs d) s.clearCpfx t := by
  simp only [exec, execSw] at h
  refine Effect.of_withConstant h fun imm hk => ?_
  split at hk
  · cases hk
  · split at hk
    · cases hk
    · exact Host.Outcome.next.inj hk ▸ .store _ rfl
        (.char _ rfl (s.fit_fit _) (.turn (.char _ rfl (s.fit_fit _) (.turn .start))))

end LoadsAndStores

/-! ## The meanings that several rows share -/

section SharedMeanings

variable {i : Instr} {s t : State} {rd rs : RegNo} {n : BitVec 4}

theorem addConstant_effect (h : addConstant rd rs n s = .next t)
    (hrd : destOf i = some rd ∨ rd = 0x0#4) (hmask : srMaskOf i = 0x000F#16) :
    Effect i s.clearCpfx t := by
  unfold addConstant at h
  exact Effect.of_withConstant_next h fun _ => .writeAlu _ hrd hmask

theorem reverseSubtract_effect (h : reverseSubtract rd n s = .next t) (hrd : destOf i = some rd)
    (hmask : srMaskOf i = 0x000F#16) : Effect i s.clearCpfx t := by
  unfold reverseSubtract at h
  exact Effect.of_withConstant_next h fun _ => .writeAlu _ (.inl hrd) hmask

theorem xorConstant_effect (h : xorConstant rd n s = .next t) (hrd : destOf i = some rd)
    (hmask : srMaskOf i = 0x0009#16) : Effect i s.clearCpfx t := by
  unfold xorConstant at h
  exact Effect.of_withConstant_next h fun _ => .writeNZ _ .start hrd hmask

theorem jumpAndLink_effect (h : jumpAndLink rd rs n s = .next t)
    (hrd : destOf i = some rd ∨ rd = 0x0#4) (hi : isTransfer i = true) :
    Effect i s.clearCpfx t := by
  unfold jumpAndLink at h
  exact Effect.of_withConstant_next h fun _ => .jump _ hrd hi

end SharedMeanings

/-! ## Every instruction -/

/-- Every instruction that completes has one of the shapes, on the state with a pending CP used up. -/
theorem exec_effect {i : Instr} {s t : State} (h : exec i s = .next t) :
    Effect i s.clearCpfx t := by
  cases i with
  | nop | endMark => exact Effect.of_withoutPrefix_next h .same
  | stop => exact Effect.of_withoutPrefix_next h (.stop rfl)
  | brk | sys | trc | dbg | nmi | reset => exact Effect.of_withoutPrefix_next h (.sysCall _ rfl)
  | irq =>
    refine Effect.of_withoutPrefix_next h ?_
    split
    · exact .same
    · exact .sysCall _ rfl
  | ei | di | ri => exact Effect.of_withoutPrefix_next h (.setI _ rfl)
  | rti n => exact Effect.of_withoutPrefix_next h (.sysReturn n _ rfl)
  | addI _ _ _ | lea _ _ _ | subI _ _ _ => exact addConstant_effect h (.inl rfl) rfl
  | cmpI _ _ => exact addConstant_effect h (.inr rfl) rfl
  | subrI _ _ | negR _ => exact reverseSubtract_effect h rfl rfl
  | adcI _ _ | sbcI _ _ =>
    simp only [exec, execAdcI, execSbcI] at h
    exact Effect.of_withConstant_next h fun _ => .writeAlu _ (.inl rfl) rfl
  | addR _ _ | adcR _ _ | subR _ _ | sbcR _ _ =>
    exact Effect.of_withoutPrefix_next h (.writeAlu _ (.inl rfl) rfl)
  | cmpR _ _ => exact Effect.of_withoutPrefix_next h (.writeAlu (rd := 0x0#4) _ (.inr rfl) rfl)
  | xorR _ _ | andR _ _ | orR _ _ | zxb _ | zxc _ | sxb _ | sxc _ =>
    exact Effect.of_withoutPrefix_next h (.writeNZ _ .start rfl rfl)
  | xorI _ _ | notR _ => exact xorConstant_effect h rfl rfl
  | andI _ _ | orI _ _ =>
    simp only [exec, execAndI, execOrI] at h
    exact Effect.of_withConstant_next h fun _ => .writeNZ _ .start rfl rfl
  | shl _ | rol _ | shr _ | asr _ | ror _ =>
    exact Effect.of_withoutPrefix_next h (.writeNCZ _ _ rfl rfl)
  | tsr rd spr =>
    refine Effect.of_withoutPrefix h fun hk => ?_
    split at hk
    · exact Host.Outcome.next.inj hk ▸ .move _ rfl
    · cases hk
  | trs rd spr => exact Effect.of_withoutPrefix_next h (.special rd spr _ rfl)
  | cp0 c =>
    obtain ⟨hc, hk⟩ := withoutPriorPrefix_next.mp h
    exact Host.Outcome.next.inj hk ▸ .cpfx (s := s.clearCpfx) _ rfl nofun
  | cp1 c =>
    obtain ⟨hc, hk⟩ := withoutPriorPrefix_next.mp h
    split at hk
    · next hx => exact Host.Outcome.next.inj hk ▸ .cpfx (s := s.clearCpfx) _ rfl fun _ _ => hx
    · cases hk
  | jal _ _ _ | callR _ _ =>
    exact jumpAndLink_effect h (.inl rfl) rfl
  | jmp _ _ | ret => exact jumpAndLink_effect h (.inr rfl) rfl
  | callS _ =>
    refine Effect.of_withoutPrefix h fun hk => ?_
    split at hk
    · cases hk
    · exact Host.Outcome.next.inj hk ▸ .jump _ (.inl rfl) rfl
  | blt _ | bge _ | ble _ | bgt _ | bltu _ | bgeu _ | bleu _ | bgtu _ | beq _ | bne _ | bmi _
  | bpl _ | bra _ => exact Effect.of_withoutPrefix_next h (.branchIf _ _ rfl)
  | bsr _ | callPc _ => exact Effect.of_withoutPrefix_next h (.jump _ (.inl rfl) rfl)
  | lb _ _ _ => exact lb_effect h
  | lc _ _ _ => exact lc_effect h
  | lw _ _ _ => exact lw_effect h
  | sb _ _ _ => exact sb_effect h
  | sc _ _ _ => exact sc_effect h
  | sw _ _ _ => exact sw_effect h

end Sys2Proof.Machine

/-! What every instruction leaves alone (10_state.md R24 to R41). -/

namespace Sys2Proof.Machine

/-! ## Registers (R22, R24) -/

theorem Accessed.readReg {i : Instr} {s u : State} (h : Accessed i s u) (q : RegNo) :
    u.readReg q = s.readReg q := by
  obtain ⟨m, b, rfl⟩ := h.eq_with
  rfl

/-- TRS to SR writes SR alone, with either setting of TRS_SR_FULL_WRITE. -/
theorem State.writeSpr_sr_eq_with (s : State) (v : Word) :
    ∃ r, s.writeSpr .sr v = { s with sr := r } := by
  cases hfull : s.cfg.trsSrFullWrite with
  | false => exact ⟨_, by rw [State.writeSpr, hfull]; rfl⟩
  | true => exact ⟨_, by rw [State.writeSpr, hfull]; rfl⟩

@[simp] theorem State.writeSpr_readReg (s : State) (spr : Spr) (v : Word) (q : RegNo) :
    (s.writeSpr spr v).readReg q = s.readReg q := by
  cases spr with
  | sr =>
    obtain ⟨r, hr⟩ := s.writeSpr_sr_eq_with v
    rw [hr]
    rfl
  | ilr | ver => rfl

/-- A register is unchanged by a write to another register, or to r0. -/
theorem State.readReg_writeReg_of_ne {s : State} {rd q : RegNo} {d : Option RegNo} (v : Word)
    (hrd : d = some rd ∨ rd = 0x0#4) (hq : d ≠ some q) :
    (s.writeReg rd v).readReg q = s.readReg q := by
  rw [State.readReg_writeReg, if_neg]
  rintro ⟨rfl, hne⟩
  rcases hrd with hd | hzero
  · exact hq hd
  · exact hne hzero

/-- A register that is not the destination is unchanged. -/
theorem Effect.readReg {i : Instr} {s t : State} (h : Effect i s t) {q : RegNo}
    (hq : destOf i ≠ some q) : t.readReg q = s.readReg q := by
  cases h with
  | same | sysCall | sysReturn | stop | cpfx => rfl
  | data v _ hu hrd => exact (State.readReg_writeReg_of_ne v hrd hq).trans (hu.readReg q)
  | move v hrd => exact State.readReg_writeReg_of_ne v (.inl hrd) hq
  | jump _ hrd => exact State.readReg_writeReg_of_ne s.pc hrd hq
  | special => exact State.writeSpr_readReg _ _ _ _
  | store _ _ hu => exact hu.readReg q

/-- Settles O58: r0 reads as zero in any state, and no shape of result writes a register that is not
the destination. -/
theorem registersChangeOnlyAtDestination : Obligations.RegistersChangeOnlyAtDestination :=
  fun _ _ t _ h => ⟨t.readReg_zero, (exec_effect h).readReg⟩

/-! ## The status register (R31, R32, R41) -/

/-- SR is kept outside a mask exactly when each bit outside it is kept. -/
theorem srKept_iff {s t : State} {mask : BitVec 16} :
    SrKept s t mask ↔
      ∀ k < 16, mask.getLsbD k = false → t.sr.getLsbD k = s.sr.getLsbD k := by
  unfold SrKept
  constructor
  · intro h k hk hm
    have hbit := congrArg (·.getLsbD k) h
    simpa only [BitVec.getLsbD_and, BitVec.getLsbD_not, hk, hm, decide_true, Bool.not_false,
      Bool.and_true] using hbit
  · intro h
    apply BitVec.eq_of_getLsbD_eq
    intro k hk
    rw [BitVec.getLsbD_and, BitVec.getLsbD_and, BitVec.getLsbD_not]
    cases hm : mask.getLsbD k with
    | true => simp
    | false => rw [h k hk hm]

theorem SrKept.of_sr_eq {s t : State} (h : t.sr = s.sr) (mask : BitVec 16) : SrKept s t mask :=
  congrArg (· &&& ~~~mask) h

/-- The reserved bits of SR, 4 to 6 and 12 to 14, are zero (R32). -/
theorem reserved_zero_iff {sr : BitVec 16} :
    sr &&& 0x7070#16 = 0x0000#16 ↔
      ∀ k, 4 ≤ k → k < 7 → sr.getLsbD k = false ∧ sr.getLsbD (k + 8) = false := by
  constructor
  · intro h k hlow hhigh
    have hbit : ∀ j, (sr &&& 0x7070#16).getLsbD j = false := fun j => by rw [h]; simp
    have h0 := hbit k
    have h8 := hbit (k + 8)
    rw [BitVec.getLsbD_and] at h0 h8
    interval_cases k <;> exact ⟨by simpa using h0, by simpa using h8⟩
  · intro h
    apply BitVec.eq_of_getLsbD_eq
    intro k hk
    have h4 := h 4 (by decide) (by decide)
    have h5 := h 5 (by decide) (by decide)
    have h6 := h 6 (by decide) (by decide)
    rw [BitVec.getLsbD_and]
    interval_cases k <;> simp_all

/-- Where the reserved bits are zero they stay zero if only defined bits change. -/
theorem SrKept.reserved_zero {s t : State} {mask : BitVec 16}
    (h : SrKept s t (mask &&& 0x8F8F#16)) (hs : s.sr &&& 0x7070#16 = 0x0000#16) :
    t.sr &&& 0x7070#16 = 0x0000#16 := by
  have hsplit : ∀ sr : BitVec 16,
      sr &&& 0x7070#16 = (sr &&& ~~~(mask &&& 0x8F8F#16)) &&& 0x7070#16 := by
    intro sr
    apply BitVec.eq_of_getLsbD_eq
    intro k hk
    simp only [BitVec.getLsbD_and, BitVec.getLsbD_not, hk, decide_true, Bool.true_and]
    interval_cases k <;> simp
  rw [hsplit, h, ← hsplit, hs]

theorem srEnter_getLsbD (sr : BitVec 16) {k : Nat} (hk : k < 16) :
    (srEnter sr).getLsbD k =
      if k < 8 then sr.getLsbD k || decide (k = 7) else sr.getLsbD (k - 8) := by
  simp only [srEnter, srWork, BitVec.getLsbD_append, BitVec.getLsbD_or, BitVec.getLsbD_extractLsb']
  interval_cases k <;> simp

theorem srReturn_getLsbD (sr : BitVec 16) {k : Nat} (hk : k < 16) :
    (srReturn sr).getLsbD k = if k < 8 then sr.getLsbD (k + 8) else sr.getLsbD k := by
  simp only [srReturn, srBackup, BitVec.getLsbD_append, BitVec.getLsbD_extractLsb']
  interval_cases k <;> simp [Nat.add_comm]

/-- An entry keeps the low seven bits: the copy goes to the backup half, and I is set. -/
theorem State.sysCall_srKept (s : State) (v : BitVec 4) (ret : Word) :
    SrKept s (s.sysCall v ret) 0xFF80#16 := by
  refine srKept_iff.mpr fun k hk hm => ?_
  have hlow : k < 7 :=
    (by decide : ∀ k < 16, (0xFF80#16).getLsbD k = false → k < 7) k hk hm
  rw [State.sysCall_sr, srEnter_getLsbD _ hk, if_pos (by omega)]
  simp [show k ≠ 7 by omega]

theorem State.sysCall_srKept_defined {s : State} (hs : s.sr &&& 0x7070#16 = 0x0000#16)
    (v : BitVec 4) (ret : Word) : SrKept s (s.sysCall v ret) (0xFF80#16 &&& 0x8F8F#16) := by
  refine srKept_iff.mpr fun k hk hm => ?_
  have hcase : k < 7 ∨ (12 ≤ k ∧ k < 15) :=
    (by decide : ∀ k < 16, (0xFF80#16 &&& 0x8F8F#16).getLsbD k = false →
      k < 7 ∨ (12 ≤ k ∧ k < 15)) k hk hm
  rcases hcase with hlow | ⟨hge, hlt⟩
  · exact srKept_iff.mp (s.sysCall_srKept v ret) k hk
      ((by decide : ∀ k < 7, (0xFF80#16).getLsbD k = false) k hlow)
  · obtain ⟨hwork, hbackup⟩ := reserved_zero_iff.mp hs (k - 8) (by omega) (by omega)
    rw [Nat.sub_add_cancel (by omega)] at hbackup
    rw [State.sysCall_sr, srEnter_getLsbD _ hk, if_neg (by omega), hwork, hbackup]

/-- A return keeps the backup half. -/
theorem State.sysReturn_srKept (s : State) (d : Word) : SrKept s (s.sysReturn d) 0x00FF#16 := by
  refine srKept_iff.mpr fun k hk hm => ?_
  have hhigh : 8 ≤ k :=
    (by decide : ∀ k < 16, (0x00FF#16).getLsbD k = false → 8 ≤ k) k hk hm
  rw [State.sysReturn_sr, srReturn_getLsbD _ hk, if_neg (by omega)]

theorem State.sysReturn_srKept_defined {s : State} (hs : s.sr &&& 0x7070#16 = 0x0000#16)
    (d : Word) : SrKept s (s.sysReturn d) (0x00FF#16 &&& 0x8F8F#16) := by
  refine srKept_iff.mpr fun k hk hm => ?_
  have hcase : 8 ≤ k ∨ (4 ≤ k ∧ k < 7) :=
    (by decide : ∀ k < 16, (0x00FF#16 &&& 0x8F8F#16).getLsbD k = false →
      8 ≤ k ∨ (4 ≤ k ∧ k < 7)) k hk hm
  rcases hcase with hhigh | ⟨hge, hlt⟩
  · rw [State.sysReturn_sr, srReturn_getLsbD _ hk, if_neg (by omega)]
  · obtain ⟨hwork, hbackup⟩ := reserved_zero_iff.mp hs k hge hlt
    rw [State.sysReturn_sr, srReturn_getLsbD _ hk, if_pos (by omega), hwork, hbackup]

/-- TRS to SR with TRS_SR_FULL_WRITE off writes N, V, C and Z alone (D9). -/
theorem State.writeSpr_srKept_of_not_full {s : State} (hfull : s.cfg.trsSrFullWrite = false)
    (v : Word) : SrKept s (s.writeSpr .sr v) 0x000F#16 := by
  rw [State.writeSpr, hfull]
  exact s.maskSr_kept _ _

/-- TRS to SR writes defined bits alone where the reserved bits are zero, with either setting of
TRS_SR_FULL_WRITE. -/
theorem State.writeSpr_srKept_defined {s : State} (hs : s.sr &&& 0x7070#16 = 0x0000#16) (v : Word) :
    SrKept s (s.writeSpr .sr v) (0xFFFF#16 &&& 0x8F8F#16) := by
  refine srKept_iff.mpr fun k hk hm => ?_
  cases hfull : s.cfg.trsSrFullWrite with
  | false =>
    exact srKept_iff.mp (State.writeSpr_srKept_of_not_full hfull v) k hk
      ((by decide : ∀ k < 16, (0xFFFF#16 &&& 0x8F8F#16).getLsbD k = false →
        (0x000F#16).getLsbD k = false) k hk hm)
  | true =>
    have hzero : s.sr.getLsbD k = false := by
      have hbit := congrArg (·.getLsbD k) hs
      have hmask := (by decide : ∀ k < 16, (0xFFFF#16 &&& 0x8F8F#16).getLsbD k = false →
        (0x7070#16).getLsbD k = true) k hk hm
      simpa only [BitVec.getLsbD_and, hmask, Bool.and_true, BitVec.getLsbD_zero] using hbit
    have hwritten : (s.writeSpr .sr v).sr = v.extractLsb' 0 16 &&& 0x8F8F#16 := by
      rw [State.writeSpr, hfull]
      rfl
    have hmask := (by decide : ∀ k < 16, (0xFFFF#16 &&& 0x8F8F#16).getLsbD k = false →
        (0x8F8F#16).getLsbD k = false) k hk hm
    rw [hwritten, BitVec.getLsbD_and, hmask, Bool.and_false, hzero]

theorem srMaskOf_of_isSystemCall {i : Instr} (h : isSystemCall i = true) :
    srMaskOf i = 0xFF80#16 := by
  cases i with
  | brk | sys | trc | dbg | irq | nmi | reset => rfl
  | _ => cases h

theorem Accessed.sr {i : Instr} {s u : State} (h : Accessed i s u) : u.sr = s.sr := by
  obtain ⟨m, b, rfl⟩ := h.eq_with
  rfl

/-- An instruction changes no bit of SR outside its row of the flag table (R41). -/
theorem Effect.srKept {i : Instr} {s t : State} (h : Effect i s t) : SrKept s t (srMaskOf i) := by
  cases h with
  | same | move | jump | stop | cpfx => exact .of_sr_eq rfl _
  | data v bits hu _ hmask =>
    rw [hmask, SrKept, State.maskSr_kept, State.writeReg_sr, hu.sr]
  | sysCall v hi => exact srMaskOf_of_isSystemCall hi ▸ s.sysCall_srKept v _
  | sysReturn n d hi => exact hi ▸ s.sysReturn_srKept d
  | special rd spr v hi =>
    subst hi
    cases spr with
    | sr =>
      have hall : ∀ k < 16, (0xFFFF#16).getLsbD k = true := by decide
      exact srKept_iff.mpr fun k hk hm => absurd ((hall k hk).symm.trans hm) nofun
    | ilr | ver => exact .of_sr_eq rfl _
  | store _ _ hu => exact .of_sr_eq hu.sr _

/-- Where the reserved bits are zero an instruction changes defined bits alone (R32). -/
theorem Effect.srKept_defined {i : Instr} {s t : State} (h : Effect i s t)
    (hs : s.sr &&& 0x7070#16 = 0x0000#16) : SrKept s t (srMaskOf i &&& 0x8F8F#16) := by
  cases h with
  | same | move | jump | stop | cpfx => exact .of_sr_eq rfl _
  | data v bits hu hrd hmask hdefined =>
    rw [hmask, hdefined, ← hmask]
    subst hmask
    exact (Effect.data v bits hu hrd rfl hdefined).srKept
  | sysCall v hi => exact srMaskOf_of_isSystemCall hi ▸ State.sysCall_srKept_defined hs v _
  | sysReturn n d hi => exact hi ▸ State.sysReturn_srKept_defined hs d
  | special rd spr v hi =>
    subst hi
    cases spr with
    | sr => exact State.writeSpr_srKept_defined hs v
    | ilr | ver => exact .of_sr_eq rfl _
  | store _ _ hu => exact .of_sr_eq hu.sr _

/-- Settles O59: each shape of result keeps SR outside the mask, the backup half and the reserved bits
included; TRS to SR is a write under the narrow mask when TRS_SR_FULL_WRITE is off. -/
theorem statusChangesOnlyAsTabled : Obligations.StatusChangesOnlyAsTabled := by
  intro i s t h
  refine ⟨(exec_effect h).srKept, (exec_effect h).srKept_defined, ?_⟩
  rintro rd rfl hfull
  obtain ⟨-, hwrite⟩ := State.withoutPrefix_next.mp h
  exact Host.Outcome.next.inj hwrite ▸ State.writeSpr_srKept_of_not_full hfull _

/-! ## The rest of the state (R26, R33, R36 to R38, R43) -/

/-- What the instruction `i` keeps of the state besides registers and SR, each part under the condition
that `i` is no instruction that is named for it. -/
structure OthersKept (i : Instr) (s t : State) : Prop where
  ilr : isSystemCall i = false → (∀ rd, i ≠ .trs rd .ilr) → t.ilr = s.ilr
  pc : isTransfer i = false → t.pc = s.pc
  stale : isStore i = false → t.stale = s.stale
  mem : isStore i = false → s.cfg.externalWriters = false → t.mem = s.mem
  bus : isStore i = false → s.cfg.externalWriters = false → t.bus = s.bus
  stopped : i ≠ .stop → t.stopped = s.stopped
  cpfx : isPrefix i = false → t.cpfx = s.cpfx
  irq : t.irq = s.irq
  nmiPending : t.nmiPending = s.nmiPending
  nmiLine : t.nmiLine = s.nmiLine
  env : t.env = s.env
  free : t.free = s.free
  cfg : t.cfg = s.cfg

theorem OthersKept.refl (i : Instr) (s : State) : OthersKept i s s :=
  ⟨fun _ _ => rfl, fun _ => rfl, fun _ => rfl, fun _ _ => rfl, fun _ _ => rfl, fun _ => rfl,
    fun _ => rfl, rfl, rfl, rfl, rfl, rfl, rfl⟩

/-- Transfers keep all of it: a load changes memory only beside another bus master. -/
theorem Accessed.othersKept {i : Instr} {s u : State} (h : Accessed i s u) : OthersKept i s u := by
  have hself := h.eq_self
  obtain ⟨m, b, rfl⟩ := h.eq_with
  exact { OthersKept.refl i s with
    mem := fun hi hext => congrArg State.mem (hself hi hext)
    bus := fun hi hext => congrArg State.bus (hself hi hext) }

/-- TRS writes nothing of it but ILR, when ILR is what it names. -/
theorem writeSpr_othersKept (s : State) (rd : RegNo) (spr : Spr) (v : Word) :
    OthersKept (.trs rd spr) s (s.writeSpr spr v) := by
  cases spr with
  | sr =>
    obtain ⟨r, hr⟩ := s.writeSpr_sr_eq_with v
    rw [hr]
    exact { OthersKept.refl _ s with }
  | ilr => exact { OthersKept.refl _ s with ilr := fun _ htrs => absurd rfl (htrs rd) }
  | ver => exact OthersKept.refl _ s

theorem isTransfer_of_isSystemCall {i : Instr} (h : isSystemCall i = true) :
    isTransfer i = true := by
  cases i with
  | brk | sys | trc | dbg | irq | nmi | reset => rfl
  | _ => cases h

theorem Effect.othersKept {i : Instr} {s t : State} (h : Effect i s t) : OthersKept i s t := by
  cases h with
  | same | move => exact { OthersKept.refl i s with }
  | data _ _ hu => exact { hu.othersKept with }
  | jump _ _ hi =>
    exact { OthersKept.refl i s with pc := fun hne => absurd (hi.symm.trans hne) nofun }
  | sysCall _ hi =>
    exact { OthersKept.refl i s with
      ilr := fun hne => absurd (hi.symm.trans hne) nofun
      pc := fun hne => absurd ((isTransfer_of_isSystemCall hi).symm.trans hne) nofun }
  | sysReturn n _ hi =>
    subst hi
    exact { OthersKept.refl _ s with pc := nofun }
  | special rd spr v hi => exact hi ▸ writeSpr_othersKept s rd spr v
  | store _ hi hu =>
    exact { hu.othersKept with stale := fun hne => absurd (hi.symm.trans hne) nofun }
  | stop hi => exact { OthersKept.refl i s with stopped := fun hne => absurd hi hne }
  | cpfx _ hi =>
    exact { OthersKept.refl i s with cpfx := fun hne => absurd (hi.symm.trans hne) nofun }

/-- Settles O60: what every shape of result keeps; `exec_effect` starts from the state with a
pending CP used up, so an instruction that keeps `cpfx` leaves `Cpfx.none`. -/
theorem otherStateChangesOnlyAsNamed : Obligations.OtherStateChangesOnlyAsNamed := by
  intro i s t h
  obtain ⟨hilr, hpc, hstale, hmem, hbus, hstopped, hcpfx, hirq, hpending, hline, henv,
    hfree, hcfg⟩ := (exec_effect h).othersKept
  refine ⟨hilr, hpc, fun hi => ⟨hstale hi, fun hext => ⟨fun a => ?_, hmem hi hext, hbus hi hext⟩⟩,
    hstopped, hcpfx, hirq, hpending, hline, henv, hfree, hcfg⟩
  exact congrArg (Memory.read · a.toNat) (hmem hi hext)

end Sys2Proof.Machine

/-! What a step can do, the reset state, and the machine invariant (10_state.md R20 to R43). -/

namespace Sys2Proof.Machine

/-! ## What a step can do -/

/-- What a step that answers a next state can make of `s`, whose inputs are sampled: one constructor for
each case of the frame (00_scope.md R14). -/
inductive StepsTo (s : State) : State → Prop
  | reset : StepsTo s s.hardwareReset
  | wakeNmi (hstopped : s.stopped = true) : StepsTo s { s with stopped := false }.takeNmi
  | restart (hstopped : s.stopped = true) : StepsTo s { s with stopped := false }
  | sleep : StepsTo s s
  | takeNmi (hcpfx : s.cpfx = .none) : StepsTo s s.takeNmi
  | takeIrq (hcpfx : s.cpfx = .none) : StepsTo s s.takeIrq
  | constantChar (u : BitVec 28) (hrunning : s.stopped = false) (hfresh : s.stale = false) :
      StepsTo s { s.fetched with cpfx := .ready u }
  | instruction {i : Instr} {t : State} (hrunning : s.stopped = false) (hfresh : s.stale = false)
      (hexec : exec i s.fetched = .next t) : StepsTo s t

theorem State.stoppedStep_stepsTo {s : State} (hstopped : s.stopped = true) (go : Bool) :
    StepsTo s (s.stoppedStep go) := by
  unfold State.stoppedStep
  split
  · exact .wakeNmi hstopped
  · split
    · exact .restart hstopped
    · exact .sleep

theorem State.interrupted_stepsTo {s t : State} (h : s.interrupted = some t) : StepsTo s t := by
  obtain ⟨hcpfx, ⟨-, rfl⟩ | ⟨-, -, -, rfl⟩⟩ := State.interrupted_some.mp h
  · exact .takeNmi hcpfx
  · exact .takeIrq hcpfx

theorem eq_of_task_done {s t u : State} (htask : s.task = .done u) (h : step s = .next t) :
    u = t := by
  simpa [step, htask] using h

theorem step_of_task_stop {s : State} {r : Refusal} (htask : s.task = .stop r) :
    step s = .refused r := by
  simp [step, htask]

/-- A step that fetches takes constant data or runs an instruction; a running core with nothing stale is
what the fetch is let through for. -/
theorem step_stepsTo_of_fetch {s t : State} (hrunning : s.stopped = false)
    (htask : s.task = s.sample.fetchTask) (h : step s = .next t) : StepsTo s.sample t := by
  cases hr : s.sample.fetchRefusal with
  | some r =>
    have hstop : s.task = .stop r := by rw [htask, State.fetchTask, hr]
    exact absurd ((step_of_task_stop hstop).symm.trans h) nofun
  | none =>
    obtain ⟨-, hfresh, -⟩ := State.fetchRefusal_none.mp hr
    rcases State.fetchTask_cases hr with ⟨c, -, hdone⟩ | ⟨-, ⟨i, -, hrun⟩ | ⟨e, -, hstop⟩⟩
    · exact eq_of_task_done (htask.trans hdone) h ▸ .constantChar _ hrunning hfresh
    · exact .instruction hrunning hfresh ((step_of_task_run (htask.trans hrun)).symm.trans h)
    · exact absurd ((step_of_task_stop (htask.trans hstop)).symm.trans h) nofun

theorem step_stepsTo {s t : State} (h : step s = .next t) : StepsTo s.sample t := by
  rcases s.sample.taskOf_cases s.inputsNow with
    ⟨-, hreset⟩ | ⟨-, hstopped, hwake⟩ | ⟨-, -, u, hu, htaken⟩ | ⟨-, hrunning, -, hfetch⟩
  · exact eq_of_task_done hreset h ▸ .reset
  · exact eq_of_task_done hwake h ▸ State.stoppedStep_stepsTo hstopped _
  · exact eq_of_task_done htaken h ▸ State.interrupted_stepsTo hu
  · exact step_stepsTo_of_fetch hrunning hfetch h

/-- Settles O4: the frame keeps the parameters in each of its cases, and so does every instruction. -/
theorem stepKeepsConfiguration : Obligations.StepKeepsConfiguration := by
  intro s t h
  cases step_stepsTo h with
  | reset => exact s.sample.hardwareReset_cfg
  | wakeNmi | restart | sleep | takeNmi | takeIrq | constantChar => rfl
  | instruction _ _ hexec => exact (exec_effect hexec).othersKept.cfg

/-! ## The hardware interrupts (R38) -/

theorem step_of_interrupted {s t : State} (hrst : s.inputsNow.rst = false)
    (hrunning : s.stopped = false) (h : s.sample.interrupted = some t) : step s = .next t := by
  simp [step, State.task, State.taskOf, hrst, hrunning, h]

/-- A pending NMI that is taken enters vector 14 (60_exceptions.md R283). -/
theorem State.takeNmi_eq_entered {s : State} (h : s.nmiPending = true) :
    s.takeNmi = { s.entered 14 s.pc with nmiPending := decide (s.cfg.nmiTrigger = .level) } := by
  rw [← State.takeNmi_nmiPending h]
  rfl

/-- Settles O15: the sample by its two triggers, the recognition by `State.interrupted_some`, the entry by
the vector each interrupt takes. -/
theorem hardwareInterruptsTaken : Obligations.HardwareInterruptsTaken := by
  intro s
  refine ⟨fun hedge => State.nmiPendingAfter_edge hedge _,
    fun hlevel => State.nmiPendingAfter_level hlevel _, rfl, rfl, ?_, ?_, ?_⟩
  · intro now rest henv
    exact ⟨by simp [State.inputsNow, henv], by simp [henv]⟩
  · intro henv
    exact ⟨by simp [State.inputsNow, henv], by simp [henv]⟩
  · intro hrst hrunning hcpfx
    refine ⟨fun hpending => ?_, fun hpending hirq hclear => ?_⟩
    · rw [← s.sample_pc, ← s.sample_cfg, ← State.takeNmi_eq_entered hpending]
      exact step_of_interrupted hrst hrunning
        (State.interrupted_some.mpr ⟨hcpfx, .inl ⟨hpending, rfl⟩⟩)
    · exact step_of_interrupted (t := s.sample.takeIrq) hrst hrunning
        (State.interrupted_some.mpr ⟨hcpfx, .inr ⟨hpending, hirq, hclear, rfl⟩⟩)

/-! ## The reset state (R42) -/

/-- Settles O1: each value by evaluation. -/
theorem resetStateAsSpecified : Obligations.ResetStateAsSpecified :=
  ⟨rfl, rfl, rfl, rfl, rfl, rfl, rfl, rfl⟩

theorem State.readReg_reset (q : RegNo) : State.reset.readReg q = 0x00000000#32 := by
  unfold State.readReg
  split
  · rfl
  · exact Vector.getElem_replicate _

/-- Settles O2: memory is empty and every register zero. -/
theorem resetHasInvariant : Obligations.ResetHasInvariant where
  memWf := Memory.wf_reset
  memIn := nofun
  zero := rfl
  regs q := by rw [State.readReg_reset, State.fit_zero]
  pc := rfl
  ilr := rfl
  sr := rfl
  stopped := nofun
  stale := nofun
  half := nofun

/-! ## The invariant under each operation -/

theorem Memory.write_inside {m : Memory} {low : Nat} (hm : ∀ c ∈ m, c.1 < low) {a : Nat}
    (ha : a < low) (b : Byte) : ∀ c ∈ Memory.write m a b, c.1 < low := by
  intro c hc
  rcases Memory.write_mem hc with rfl | hold
  · exact ha
  · exact hm c hold

theorem Xlen.fit_lt (x : Xlen) (v : Word) : (x.fit v).toNat < 2 ^ x.bits :=
  (Xlen.fit_eq_iff x _).mp (Xlen.fit_fit x v)

theorem Memory.writeBurst_inside (x : Xlen) {m : Memory} (hm : ∀ c ∈ m, c.1 < 2 ^ x.bits)
    (ws : List (Word × Byte)) : ∀ c ∈ Memory.writeBurst x m ws, c.1 < 2 ^ x.bits := by
  induction ws generalizing m with
  | nil => exact hm
  | cons w ws ih => exact ih (Memory.write_inside hm (Xlen.fit_lt x w.1) w.2)

/-- A write to a register leaves r0's slot alone. -/
theorem State.writeReg_slot_zero (s : State) (i : RegNo) (v : Word) :
    (s.writeReg i v).regs[0] = s.regs[0] := by
  by_cases hi : i = 0x0#4
  · rw [hi, State.writeReg_zero]
  · have hne : i.toNat ≠ 0 := fun h => hi (BitVec.eq_of_toNat_eq h)
    simp [hi, hne]

theorem State.RegsFit.writeReg {s : State} (h : s.RegsFit) (i : RegNo) (v : Word) :
    (s.writeReg i v).RegsFit := by
  intro q
  rw [State.readReg_writeReg, State.writeReg_fit]
  split
  · exact s.fit_fit v
  · exact h q

theorem State.hardwareReset_slot_zero (s : State) : s.hardwareReset.regs[0] = 0x00000000#32 := by
  rw [State.hardwareReset_regs, freeRegs, Vector.getElem_ofFn, if_pos rfl]

theorem State.hardwareReset_regsFit (s : State) : s.hardwareReset.RegsFit := by
  intro q
  rw [State.readReg_hardwareReset, State.hardwareReset_fit]
  split
  · exact s.fit_zero
  · exact s.fit_fit _

/-- The free value that a hardware reset gives SR is cut to the defined bits. -/
theorem State.hardwareReset_reserved_zero (s : State) :
    s.hardwareReset.sr &&& 0x7070#16 = 0x0000#16 := by
  have hsr : s.hardwareReset.sr =
      ((Config.freeWord (s.free + 17)).extractLsb' 0 16 &&& 0x8F8F#16) ||| 0x0080#16 := rfl
  rw [hsr]
  generalize (Config.freeWord (s.free + 17)).extractLsb' 0 16 = v
  refine reserved_zero_iff.mpr fun k hlow hhigh => ?_
  simp only [BitVec.getLsbD_or, BitVec.getLsbD_and]
  interval_cases k <;> simp

namespace State.Inv

variable {s : State}

theorem turn (h : s.Inv) : s.turn.Inv :=
  { h with
    memWf := State.turn_wf h.memWf
    memIn := by
      intro c hc
      unfold State.turn at hc
      split at hc
      · exact Memory.writeBurst_inside _ h.memIn _ c hc
      · exact h.memIn c hc }

theorem writeByte (h : s.Inv) {a : Word} (ha : s.fit a = a) (b : Byte) : (s.writeByte a b).Inv :=
  { h with
    memWf := State.writeByte_wf h.memWf a b
    memIn := Memory.write_inside h.memIn ((Xlen.fit_eq_iff s.cfg.xlen a).mp ha) b }

theorem accessed {i : Instr} {u : State} (h : s.Inv) (hu : Accessed i s u) : u.Inv := by
  induction hu with
  | start => exact h
  | turn _ ih => exact ih.turn
  | byte a b _ ha hu ih =>
    obtain ⟨m, bus, rfl⟩ := hu.eq_with
    exact ih.writeByte ha b

theorem writeReg (h : s.Inv) (i : RegNo) (v : Word) : (s.writeReg i v).Inv :=
  { h with
    zero := (s.writeReg_slot_zero i v).trans h.zero
    regs := State.RegsFit.writeReg h.regs i v }

theorem jump (h : s.Inv) (p : Word) : (s.jump p).Inv :=
  { h with pc := s.fit_fit p }

/-- The fetch takes the other master's turn and advances the pc. -/
theorem fetched (h : s.Inv) : s.fetched.Inv := h.turn.jump _

theorem sample (h : s.Inv) : s.sample.Inv := { h with }

theorem clearCpfx (h : s.Inv) : s.clearCpfx.Inv :=
  { h with
    stopped := fun _ => rfl
    stale := fun hs => ⟨rfl, (h.stale hs).2⟩
    half := nofun }

theorem ready (h : s.Inv) (hrunning : s.stopped = false) (hfresh : s.stale = false) (u : BitVec 28) :
    State.Inv { s with cpfx := .ready u } :=
  { h with
    stopped := fun hs => absurd (hs.symm.trans hrunning) nofun
    stale := fun hs => absurd (hs.symm.trans hfresh) nofun
    half := nofun }

/-- The entry writes ILR, SR and the pc; the return address must fit. -/
theorem sysCall (h : s.Inv) (v : BitVec 4) {ret : Word} (hret : s.fit ret = ret) :
    (s.sysCall v ret).Inv :=
  { h with
    pc := s.fit_fit _
    ilr := hret
    sr := (State.sysCall_srKept_defined h.sr v ret).reserved_zero h.sr }

theorem takeNmi (h : s.Inv) : s.takeNmi.Inv := { h.sysCall 0xE#4 h.pc with }

theorem takeIrq (h : s.Inv) : s.takeIrq.Inv := h.sysCall 0xD#4 h.pc

theorem restart (h : s.Inv) : State.Inv { s with stopped := false } :=
  { h with
    stopped := nofun
    stale := fun hs => ⟨(h.stale hs).1, rfl⟩ }

/-- A hardware reset leaves free values, cut to W bits, and memory as it was (R42). -/
theorem hardwareReset (h : s.Inv) : s.hardwareReset.Inv where
  memWf := by rw [State.hardwareReset_mem]; exact h.memWf
  memIn := by rw [State.hardwareReset_mem, State.hardwareReset_cfg]; exact h.memIn
  zero := s.hardwareReset_slot_zero
  regs := s.hardwareReset_regsFit
  pc := by rw [State.hardwareReset_fit, State.hardwareReset_pc]; exact s.fit_fit _
  ilr := by rw [State.hardwareReset_fit, State.hardwareReset_ilr]; exact s.fit_fit _
  sr := s.hardwareReset_reserved_zero
  stopped _ := s.hardwareReset_cpfx
  stale _ := ⟨s.hardwareReset_cpfx, s.hardwareReset_stopped⟩
  half _ hc := absurd (s.hardwareReset_cpfx.symm.trans hc) nofun

end State.Inv

/-! ## The invariant under instructions and steps -/

/-- TRS writes SR and ILR at most. -/
theorem State.writeSpr_eq_with (s : State) (spr : Spr) (v : Word) :
    ∃ r l, s.writeSpr spr v = { s with sr := r, ilr := l } := by
  cases spr with
  | sr =>
    obtain ⟨r, hr⟩ := s.writeSpr_sr_eq_with v
    exact ⟨r, s.ilr, hr⟩
  | ilr => exact ⟨s.sr, _, rfl⟩
  | ver => exact ⟨s.sr, s.ilr, rfl⟩

theorem State.writeSpr_ilr_fit {s : State} (h : s.fit s.ilr = s.ilr) (spr : Spr) (v : Word) :
    s.fit (s.writeSpr spr v).ilr = (s.writeSpr spr v).ilr := by
  cases spr with
  | sr =>
    obtain ⟨r, hr⟩ := s.writeSpr_sr_eq_with v
    rw [hr]
    exact h
  | ilr => exact s.fit_fit v
  | ver => exact h

/-- A running core with nothing stale keeps the invariant by any shape of result: those are what STOP, CP
and the note of a store need. -/
theorem Effect.inv {i : Instr} {s t : State} (he : Effect i s t) (h : s.Inv)
    (hcpfx : s.cpfx = .none) (hrunning : s.stopped = false) (hfresh : s.stale = false) : t.Inv := by
  have hsr := (he.srKept_defined h.sr).reserved_zero h.sr
  cases he with
  | same => exact h
  | data v _ hu => exact { (h.accessed hu).writeReg _ v with sr := hsr }
  | move v => exact h.writeReg _ v
  | jump p => exact (h.writeReg _ s.pc).jump p
  | sysCall v => exact h.sysCall v h.pc
  | sysReturn => exact { h with pc := s.fit_fit _, sr := hsr }
  | special rd spr v =>
    have hilr := State.writeSpr_ilr_fit h.ilr spr v
    obtain ⟨r, l, hw⟩ := s.writeSpr_eq_with spr v
    rw [hw] at hsr hilr ⊢
    exact { h with sr := hsr, ilr := hilr }
  | store b _ hu =>
    have hinv := h.accessed hu
    obtain ⟨m, bus, rfl⟩ := hu.eq_with
    exact { hinv with stale := fun _ => ⟨hcpfx, hrunning⟩ }
  | stop =>
    exact { h with
      stopped := fun _ => hcpfx
      stale := fun hs => absurd (hs.symm.trans hfresh) nofun }
  | cpfx p _ hp =>
    exact { h with
      stopped := fun hs => absurd (hs.symm.trans hrunning) nofun
      stale := fun hs => absurd (hs.symm.trans hfresh) nofun
      half := hp }

theorem StepsTo.inv {s t : State} (hst : StepsTo s t) (h : s.Inv) : t.Inv := by
  cases hst with
  | reset => exact h.hardwareReset
  | wakeNmi => exact h.restart.takeNmi
  | restart => exact h.restart
  | sleep => exact h
  | takeNmi => exact h.takeNmi
  | takeIrq => exact h.takeIrq
  | constantChar u hrunning hfresh => exact h.fetched.ready hrunning hfresh u
  | instruction hrunning hfresh hexec =>
    exact (exec_effect hexec).inv h.fetched.clearCpfx rfl hrunning hfresh

/-- Settles O3: sampling keeps the invariant, and so does each case of the frame; an instruction by the
shape of its result. -/
theorem stepKeepsInvariant : Obligations.StepKeepsInvariant :=
  fun _ _ hinv hstep => (step_stepsTo hstep).inv hinv.sample

end Sys2Proof.Machine

/-! The decoder and the encoder, each the other's inverse (30_encoding.md R90 to R115). -/

namespace Sys2Proof

open Machine

variable {cfg : Config} {w : Char16} {i : Instr}

/-! ## The formats (R91 to R99)

What `decodeChar` does with a character of each format, given by its major opcode. -/

theorem decodeChar_of_misc (h : fieldOp w = 0x0#4) : decodeChar cfg w = decodeMisc cfg w := by
  simp [decodeChar, h]

theorem decodeChar_rr (rd rs f3 : BitVec 4) :
    decodeChar cfg (nibbles 0x2#4 rd rs f3) = decodeRR rd rs f3 := by
  simp [decodeChar]

theorem decodeChar_rc (rd f2 f3 : BitVec 4) :
    decodeChar cfg (nibbles 0x3#4 rd f2 f3) = decodeRC rd f2 f3 := by
  simp [decodeChar]

theorem decodeSpr_encodeSpr (spr : Spr) : decodeSpr (encodeSpr spr) = .ok spr := by
  cases spr <;> rfl

/-- The short CALL is decoded by the major opcode that SHORT_CALL_OP4 names, if that is one of those
that no other instruction has (R99). -/
theorem decodeChar_callS {op : BitVec 4} (hop : op = 0x6#4 ∨ op = 0x7#4 ∨ op = 0x9#4)
    (c : BitVec 12) :
    decodeChar cfg (opLow12 op c) =
      if cfg.shortCallOp4 = some op then .ok (.callS c) else .error (.majorReserved op) := by
  rcases hop with rfl | rfl | rfl <;> simp [decodeChar]

/-! ## Format misc (R111, R220) -/

/-- A character of format misc that R111 gives to no instruction is RI's or is rejected. -/
theorem decodeMisc_of_unassigned (h : miscAssigned w = false) :
    decodeMisc cfg w =
      if cfg.riEncoding = some w then .ok .ri
      else if w.extractLsb' 4 12 = 0x000#12 then .error (.vectorReserved (fieldF3 w))
      else .error (.miscUnassigned w) := by
  unfold decodeMisc
  split
  case h_13 =>
    have hrti : w.extractLsb' 4 12 ≠ 0x004#12 := by
      intro h4
      simp [miscAssigned, h4] at h
    rw [if_neg hrti]
  all_goals exact absurd h (by decide)

theorem extractLsb'_nibbles_rti (n : BitVec 4) :
    (nibbles 0x0#4 0x0#4 0x4#4 n).extractLsb' 4 12 = 0x004#12 := by
  apply BitVec.eq_of_getLsbD_eq
  intro k hk
  simp only [nibbles, BitVec.getLsbD_extractLsb', BitVec.getLsbD_append]
  interval_cases k <;> simp

theorem decodeMisc_rti (n : BitVec 4) :
    decodeMisc cfg (nibbles 0x0#4 0x0#4 0x4#4 n) = .ok (.rti n) := by
  have h := extractLsb'_nibbles_rti n
  unfold decodeMisc
  split
  case h_13 => simp [h]
  all_goals
    next heq =>
    rw [heq] at h
    exact absurd h (by decide)

/-! ## The parameters that are encodings (D5, D6) -/

theorem riEncodable_iff :
    riEncodable cfg = true ↔
      ∃ w, cfg.riEncoding = some w ∧ fieldOp w = 0x0#4 ∧ miscAssigned w = false := by
  unfold riEncodable
  cases h : cfg.riEncoding <;> simp [fieldOp]

theorem shortCallEncodable_iff :
    shortCallEncodable cfg = true ↔
      ∃ op, cfg.shortCallOp4 = some op ∧ (op = 0x6#4 ∨ op = 0x7#4 ∨ op = 0x9#4) := by
  unfold shortCallEncodable
  cases h : cfg.shortCallOp4 <;> simp [or_assoc]

theorem decodeChar_encode_ri (h : riEncodable cfg = true) :
    decodeChar cfg (encode cfg .ri) = .ok .ri := by
  obtain ⟨w, hri, hop, hfree⟩ := riEncodable_iff.mp h
  have hencode : encode cfg .ri = w := by simp [encode, hri]
  rw [hencode, decodeChar_of_misc hop, decodeMisc_of_unassigned hfree, if_pos hri]

theorem decodeChar_encode_callS (h : shortCallEncodable cfg = true) (a : BitVec 12) :
    decodeChar cfg (encode cfg (.callS a)) = .ok (.callS a) := by
  obtain ⟨op, hcall, hop⟩ := shortCallEncodable_iff.mp h
  have hencode : encode cfg (.callS a) = opLow12 op a := by simp [encode, hcall]
  rw [hencode, decodeChar_callS hop, if_pos hcall]

/-! ## Decoding an encoding -/

/-- Settles O6, by what it takes to tell the instruction from the others: the whole character (misc),
the major opcode alone (rrc, cp, rrd3), a function code (rr, rc), a condition code (br). The two
instructions whose pattern is a parameter are where well-formedness is needed. -/
theorem decodeOfEncode : Obligations.DecodeOfEncode := by
  intro cfg i hwf
  cases i with
  | brk | sys | irq | nmi | reset | ei | di | nop | stop | endMark | trc | dbg | ret =>
    simp only [encode]
    rfl
  | ri => exact decodeChar_encode_ri hwf
  | rti n => exact (decodeChar_of_misc (fieldOp_nibbles ..)).trans (decodeMisc_rti n)
  | addI _ _ _ | lea _ _ _ | subI _ _ _ | cmpI _ _ | jal _ _ _ | jmp _ _ | callR _ _
  | sb _ _ _ | lb _ _ _ | cp0 _ | cp1 _ | sc _ _ _ | sw _ _ _ | lc _ _ _ | lw _ _ _ =>
    simp [encode, decodeChar, Instr.core]
  | addR _ _ | adcR _ _ | subR _ _ | sbcR _ _ | xorR _ _ | andR _ _ | orR _ _ | cmpR _ _
  | zxb _ | zxc _ | sxb _ | sxc _ => exact decodeChar_rr ..
  | adcI _ _ | subrI _ _ | sbcI _ _ | xorI _ _ | andI _ _ | orI _ _ | negR _ | notR _
  | shl _ | rol _ | shr _ | asr _ | ror _ => exact decodeChar_rc ..
  | tsr _ spr | trs _ spr =>
    refine (decodeChar_rc ..).trans ?_
    simp [decodeRC, decodeSpr_encodeSpr, Except.map, Instr.core]
  | callS a => exact decodeChar_encode_callS hwf a
  | blt _ | bge _ | ble _ | bgt _ | bltu _ | bgeu _ | bleu _ | bgtu _ | beq _ | bne _ | bmi _
  | bpl _ | bra _ | bsr _ | callPc _ => exact decodeChar_branchChar ..

/-! ## A character is its fields, for a given major opcode -/

theorem nibbles_of_fieldOp {op : BitVec 4} (h : fieldOp w = op) :
    nibbles op (fieldF1 w) (fieldF2 w) (fieldF3 w) = w :=
  h ▸ nibbles_fields w

theorem opLow12_of_fieldOp {op : BitVec 4} (h : fieldOp w = op) :
    opLow12 op (fieldLow12 w) = w :=
  h ▸ opLow12_fields w

theorem rrd3_of_fieldOp {op : BitVec 4} {b : BitVec 1} (h : fieldOp w = op)
    (hb : fieldSize w = b) : rrd3 op (fieldF1 w) (fieldF2 w) (fieldD3 w) b = w :=
  h ▸ hb ▸ rrd3_fields w

/-- Bit 12 of a branch character is displacement bit 8; the bits above it are 101 (R97). -/
theorem branchChar_of_fieldOp (h : fieldOp w = 0xA#4 ∨ fieldOp w = 0xB#4) :
    branchChar (fieldF1 w) (fieldD9 w) = w := by
  have hhigh : w.extractLsb' 13 3 = 0b101#3 := by
    have hop : w.extractLsb' 13 3 = (fieldOp w).extractLsb' 1 3 := by
      apply BitVec.eq_of_getLsbD_eq
      intro k hk
      simp only [fieldOp, BitVec.getLsbD_extractLsb']
      interval_cases k <;> simp
    rcases h with h | h <;> rw [hop, h] <;> rfl
  rw [branchChar, ← hhigh]
  apply BitVec.eq_of_getLsbD_eq
  intro k hk
  simp only [fieldF1, fieldD9, BitVec.getLsbD_extractLsb', BitVec.getLsbD_append]
  interval_cases k <;> simp

theorem nibbles_of_rti (h : w.extractLsb' 4 12 = 0x004#12) :
    nibbles 0x0#4 0x0#4 0x4#4 (fieldF3 w) = w := by
  change 0x004#12 ++ fieldF3 w = w
  rw [← h]
  apply BitVec.eq_of_getLsbD_eq
  intro k hk
  simp only [fieldF3, BitVec.getLsbD_extractLsb', BitVec.getLsbD_append]
  interval_cases k <;> simp

/-! ## Encoding what a character decodes to -/

/-- `w` is the one character of the core instruction `i` under `cfg`. -/
structure Spells (cfg : Config) (w : Char16) (i : Instr) : Prop where
  encode_eq : encode cfg i = w
  core_eq : i.core = i
  wellFormed : WellFormed cfg i = true

theorem Spells.of_ok {j : Instr} (h : Except.ok (ε := DecodeError) j = .ok i)
    (hj : Spells cfg w j) : Spells cfg w i :=
  Except.ok.inj h ▸ hj

/-- RTI and RI are told apart from the other rows of format misc by what the character is not. -/
theorem decodeMisc_spells (h : decodeMisc cfg w = .ok i) (hop : fieldOp w = 0x0#4) :
    Spells cfg w i := by
  unfold decodeMisc at h
  split at h
  case h_13 =>
    split at h
    · next hrti => exact .of_ok h ⟨nibbles_of_rti hrti, rfl, rfl⟩
    · split at h
      · next hri =>
        have hfree : miscAssigned w = false := by simp_all [miscAssigned]
        have hwf : riEncodable cfg = true := riEncodable_iff.mpr ⟨w, hri, hop, hfree⟩
        exact .of_ok h ⟨by simp [encode, hri], rfl, hwf⟩
      · split at h <;> cases h
  all_goals exact .of_ok h ⟨rfl, rfl, rfl⟩

theorem decodeExtension_spells {rd f2 : BitVec 4} (h : decodeExtension rd f2 = .ok i) :
    Spells cfg (nibbles 0x2#4 rd f2 0xE#4) i := by
  unfold decodeExtension at h
  split at h
  case h_5 => cases h
  all_goals exact .of_ok h ⟨rfl, rfl, rfl⟩

theorem decodeRR_spells {rd rs f3 : BitVec 4} (h : decodeRR rd rs f3 = .ok i) :
    Spells cfg (nibbles 0x2#4 rd rs f3) i := by
  unfold decodeRR at h
  split at h
  case h_9 => exact decodeExtension_spells h
  case h_10 => cases h
  all_goals exact .of_ok h ⟨rfl, rfl, rfl⟩

theorem decodeShift_eq_ok {j : Instr} {f3 : BitVec 4} :
    decodeShift j f3 = .ok i ↔ f3 = 0x1#4 ∧ j = i := by
  unfold decodeShift
  split <;> simp [*]

theorem decodeSpr_eq_ok {code : BitVec 4} {spr : Spr} :
    decodeSpr code = .ok spr ↔ code = encodeSpr spr := by
  constructor
  · intro h
    unfold decodeSpr at h
    split at h
    case h_4 => cases h
    all_goals exact Except.ok.inj h ▸ rfl
  · rintro rfl
    exact decodeSpr_encodeSpr spr

theorem decodeRC_spells {rd f2 f3 : BitVec 4} (h : decodeRC rd f2 f3 = .ok i) :
    Spells cfg (nibbles 0x3#4 rd f2 f3) i := by
  unfold decodeRC at h
  split at h
  case h_7 | h_8 | h_9 | h_10 | h_11 =>
    obtain ⟨rfl, rfl⟩ := decodeShift_eq_ok.mp h
    exact ⟨rfl, rfl, rfl⟩
  case h_12 | h_13 =>
    cases hspr : decodeSpr f3 with
    | error e => rw [hspr] at h; cases h
    | ok spr =>
      rw [hspr] at h
      rw [decodeSpr_eq_ok.mp hspr]
      exact .of_ok h ⟨rfl, rfl, rfl⟩
  case h_14 => cases h
  all_goals exact .of_ok h ⟨rfl, rfl, rfl⟩

theorem decodeBranch_spells {code : BitVec 4} {d : BitVec 9} (h : decodeBranch code d = .ok i) :
    Spells cfg (branchChar code d) i := by
  unfold decodeBranch at h
  split at h
  case h_15 => cases h
  all_goals exact .of_ok h ⟨rfl, rfl, rfl⟩

/-- By the major opcode, in the order of R110; the short CALL comes last, with one of the opcodes that
no other instruction has. -/
theorem decodeChar_spells (h : decodeChar cfg w = .ok i) : Spells cfg w i := by
  unfold decodeChar at h
  split at h
  case h_1 hop => exact decodeMisc_spells h hop
  case h_3 hop => exact nibbles_of_fieldOp hop ▸ decodeRR_spells h
  case h_4 hop => exact nibbles_of_fieldOp hop ▸ decodeRC_spells h
  case h_5 hop | h_6 hop => exact .of_ok h ⟨opLow12_of_fieldOp hop, rfl, rfl⟩
  case h_8 hop => exact branchChar_of_fieldOp (.inl hop) ▸ decodeBranch_spells h
  case h_9 hop => exact branchChar_of_fieldOp (.inr hop) ▸ decodeBranch_spells h
  case h_11 hop | h_13 hop =>
    split at h
    · next hsize => exact .of_ok h ⟨rrd3_of_fieldOp hop hsize, rfl, rfl⟩
    · next hsize =>
      have hword : fieldSize w = 0x1#1 := by bv_omega
      exact .of_ok h ⟨rrd3_of_fieldOp hop hword, rfl, rfl⟩
  case h_14 =>
    split at h
    · next hcall =>
      have hop : fieldOp w = 0x6#4 ∨ fieldOp w = 0x7#4 ∨ fieldOp w = 0x9#4 := by
        simp only [imp_false] at *
        bv_omega
      have hwf : shortCallEncodable cfg = true := shortCallEncodable_iff.mpr ⟨_, hcall, hop⟩
      exact .of_ok h ⟨by simp [encode, hcall, opLow12_fields], rfl, hwf⟩
    · cases h
  case h_2 hop | h_7 hop | h_10 hop | h_12 hop =>
    exact .of_ok h ⟨nibbles_of_fieldOp hop, rfl, rfl⟩

/-- Settles O7: each opcode map decodes to instructions that spell the character. -/
theorem encodeOfDecode : Obligations.EncodeOfDecode := by
  intro cfg w i h
  obtain ⟨hencode, hcore, hwf⟩ := decodeChar_spells h
  exact ⟨hencode, hcore, hwf⟩

end Sys2Proof

/-! The characters that are no instruction (30_encoding.md R115), and a step that fetches one. -/

namespace Sys2Proof

open Machine

variable {cfg : Config} {w : Char16}

/-! ## The fields as numbers (R91) -/

theorem fieldOp_toNat (w : Char16) : (fieldOp w).toNat = w.toNat / 4096 := by
  have hw := w.isLt
  simp only [fieldOp, BitVec.extractLsb'_toNat, Nat.shiftRight_eq_div_pow]
  omega

theorem fieldF1_toNat (w : Char16) : (fieldF1 w).toNat = w.toNat / 256 % 16 := by
  simp only [fieldF1, BitVec.extractLsb'_toNat, Nat.shiftRight_eq_div_pow]

theorem fieldF2_toNat (w : Char16) : (fieldF2 w).toNat = w.toNat / 16 % 16 := by
  simp only [fieldF2, BitVec.extractLsb'_toNat, Nat.shiftRight_eq_div_pow]

theorem fieldF3_toNat (w : Char16) : (fieldF3 w).toNat = w.toNat % 16 := by
  simp only [fieldF3, BitVec.extractLsb'_toNat, Nat.shiftRight_eq_div_pow]
  omega

/-! ## What each opcode map rejects -/

theorem decodeExtension_error {rd f2 : BitVec 4} :
    (∃ e, decodeExtension rd f2 = .error e) ↔ 4 ≤ f2.toNat := by
  unfold decodeExtension
  split
  case h_5 =>
    refine iff_of_true ⟨_, rfl⟩ ?_
    simp only [imp_false] at *
    bv_omega
  all_goals simp

theorem decodeRR_error {rd rs f3 : BitVec 4} :
    (∃ e, decodeRR rd rs f3 = .error e) ↔
      (7 ≤ f3.toNat ∧ f3.toNat ≤ 0xC) ∨ f3.toNat = 0xF ∨ (f3.toNat = 0xE ∧ 4 ≤ rs.toNat) := by
  unfold decodeRR
  split
  case h_9 => simp [decodeExtension_error]
  case h_10 =>
    refine iff_of_true ⟨_, rfl⟩ ?_
    simp only [imp_false] at *
    bv_omega
  all_goals simp

theorem decodeShift_error {i : Instr} {f3 : BitVec 4} :
    (∃ e, decodeShift i f3 = .error e) ↔ f3.toNat ≠ 1 := by
  unfold decodeShift
  split
  · next h => simp [h]
  · next h => simpa [← BitVec.toNat_inj] using h

theorem decodeSpr_map_error {code : BitVec 4} {f : Spr → Instr} :
    (∃ e, (decodeSpr code).map f = .error e) ↔ code.toNat = 2 ∨ 4 ≤ code.toNat := by
  unfold decodeSpr
  split
  case h_4 =>
    refine iff_of_true ⟨_, rfl⟩ ?_
    simp only [imp_false] at *
    bv_omega
  all_goals simp [Except.map]

theorem decodeRC_error {rd f2 f3 : BitVec 4} :
    (∃ e, decodeRC rd f2 f3 = .error e) ↔
      f2.toNat = 0 ∨ f2.toNat = 7 ∨ f2.toNat = 0xD ∨
        (8 ≤ f2.toNat ∧ f2.toNat ≤ 0xC ∧ f3.toNat ≠ 1) ∨
        (0xE ≤ f2.toNat ∧ (f3.toNat = 2 ∨ 4 ≤ f3.toNat)) := by
  unfold decodeRC
  split
  case h_7 | h_8 | h_9 | h_10 | h_11 => simp [decodeShift_error]
  case h_12 | h_13 => simp [decodeSpr_map_error]
  case h_14 =>
    refine iff_of_true ⟨_, rfl⟩ ?_
    simp only [imp_false] at *
    bv_omega
  all_goals simp

theorem decodeBranch_error {code : BitVec 4} {d : BitVec 9} :
    (∃ e, decodeBranch code d = .error e) ↔ code.toNat = 0xC ∨ code.toNat = 0xD := by
  unfold decodeBranch
  split
  case h_15 =>
    refine iff_of_true ⟨_, rfl⟩ ?_
    simp only [imp_false] at *
    bv_omega
  all_goals simp

theorem decodeMisc_default_error :
    (∃ e, decodeMisc Config.default w = .error e) ↔
      (2 ≤ w.toNat ∧ w.toNat ≤ 0xA) ∨ (0x13 ≤ w.toNat ∧ w.toNat ≤ 0x1F) ∨
      (0x23 ≤ w.toNat ∧ w.toNat ≤ 0x3F) ∨ 0x50 ≤ w.toNat := by
  unfold decodeMisc
  split
  case h_13 =>
    have hrti : w.extractLsb' 4 12 = 0x004#12 ↔ w.toNat / 16 = 4 := by
      rw [← BitVec.toNat_inj, BitVec.extractLsb'_toNat, Nat.shiftRight_eq_div_pow]
      have := w.isLt
      simp
      omega
    have hri : Config.default.riEncoding = some w ↔ w.toNat = 0x12 := by
      simp [Config.default, ← BitVec.toNat_inj, eq_comm]
    simp only [hrti, hri, imp_false, ← BitVec.toNat_inj, BitVec.toNat_ofNat] at *
    split
    · simp
      omega
    split
    · simp
      omega
    · refine iff_of_true (by split <;> exact ⟨_, rfl⟩) ?_
      omega
  all_goals simp

/-! ## The table of R115 -/

/-- The rows of R115 outside format misc, by the nibbles of the character. -/
def MajorReserved (op f1 f2 f3 : Nat) : Prop :=
  op = 6 ∨ op = 7 ∨
  (op = 2 ∧ ((7 ≤ f3 ∧ f3 ≤ 0xC) ∨ f3 = 0xF ∨ (f3 = 0xE ∧ 4 ≤ f2))) ∨
  (op = 3 ∧ (f2 = 0 ∨ f2 = 7 ∨ f2 = 0xD ∨ (8 ≤ f2 ∧ f2 ≤ 0xC ∧ f3 ≠ 1) ∨
    (0xE ≤ f2 ∧ (f3 = 2 ∨ 4 ≤ f3)))) ∨
  ((op = 0xA ∨ op = 0xB) ∧ (f1 = 0xC ∨ f1 = 0xD))

/-- The characters of R115 under the default parameters. -/
def Reserved (w : Char16) : Prop :=
  (2 ≤ w.toNat ∧ w.toNat ≤ 0xA) ∨ (0x13 ≤ w.toNat ∧ w.toNat ≤ 0x1F) ∨
  (0x23 ≤ w.toNat ∧ w.toNat ≤ 0x3F) ∨ (0x50 ≤ w.toNat ∧ w.toNat ≤ 0xFFF) ∨
  MajorReserved (w.toNat / 4096) (w.toNat / 256 % 16) (w.toNat / 16 % 16) (w.toNat % 16)

theorem reserved_iff_of_misc (h : fieldOp w = 0x0#4) :
    Reserved w ↔
      (2 ≤ w.toNat ∧ w.toNat ≤ 0xA) ∨ (0x13 ≤ w.toNat ∧ w.toNat ≤ 0x1F) ∨
      (0x23 ≤ w.toNat ∧ w.toNat ≤ 0x3F) ∨ 0x50 ≤ w.toNat := by
  have hop : w.toNat / 4096 = 0 := by simpa [h] using (fieldOp_toNat w).symm
  have hmax : w.toNat ≤ 0xFFF := by omega
  simp [Reserved, MajorReserved, hop, hmax]

theorem reserved_iff_of_major (h : fieldOp w ≠ 0x0#4) :
    Reserved w ↔
      MajorReserved (fieldOp w).toNat (fieldF1 w).toNat (fieldF2 w).toNat (fieldF3 w).toNat := by
  have hop : w.toNat / 4096 ≠ 0 := by
    rw [← fieldOp_toNat]
    bv_omega
  have hmin : 0xFFF < w.toNat := by omega
  rw [fieldOp_toNat, fieldF1_toNat, fieldF2_toNat, fieldF3_toNat, Reserved]
  refine ⟨?_, fun h => .inr (.inr (.inr (.inr h)))⟩
  rintro (⟨-, hw⟩ | ⟨-, hw⟩ | ⟨-, hw⟩ | ⟨-, hw⟩ | hmajor)
  · omega
  · omega
  · omega
  · omega
  · exact hmajor

/-- By the major opcode: one with a map of its own rejects what the map rejects, and of the three
that remain the default short CALL takes 9. -/
theorem decodeChar_default_error_iff_reserved :
    (∃ e, decodeChar Config.default w = .error e) ↔ Reserved w := by
  by_cases hmisc : fieldOp w = 0x0#4
  · rw [decodeChar_of_misc hmisc, decodeMisc_default_error, reserved_iff_of_misc hmisc]
  rw [reserved_iff_of_major hmisc]
  unfold decodeChar
  split
  case h_1 h => exact absurd h hmisc
  case h_3 h => simp [h, MajorReserved, decodeRR_error]
  case h_4 h => simp [h, MajorReserved, decodeRC_error]
  case h_8 h | h_9 h => simp [h, MajorReserved, decodeBranch_error]
  case h_11 h | h_13 h =>
    refine iff_of_false (by split <;> simp) ?_
    simp [h, MajorReserved]
  case h_14 =>
    have hop : fieldOp w = 0x6#4 ∨ fieldOp w = 0x7#4 ∨ fieldOp w = 0x9#4 := by
      simp only [imp_false] at *
      bv_omega
    rcases hop with h | h | h <;> simp [h, MajorReserved, Config.default]
  case h_2 h | h_5 h | h_6 h | h_7 h | h_10 h | h_12 h => simp [h, MajorReserved]

/-! ## A step that fetches a reserved character (D13) -/

theorem step_refused_of_decode_error {s : State} {e : DecodeError} (hquiet : s.Quiet)
    (hfetch : s.Fetchable) (hcpfx : ∀ c, s.cpfx ≠ .half c)
    (he : decodeChar s.cfg s.sample.fetchedChar = .error e) :
    step s = .refused (.reservedEncoding e) := by
  refine step_of_task_stop (hquiet.task.trans ?_)
  rcases State.fetchTask_cases hfetch.fetchRefusal_sample with
    ⟨c, hhalf, -⟩ | ⟨-, ⟨i, hi, -⟩ | ⟨e', he', htask⟩⟩
  · exact absurd hhalf (hcpfx c)
  · exact absurd (hi.symm.trans he) nofun
  · obtain rfl : e' = e := Except.error.inj (he'.symm.trans he)
    exact htask

/-- The character that a step fetches, from its bytes. -/
theorem fetchedChar_sample_eq_charAt (s : State) :
    s.sample.fetchedChar = s.sample.turn.charAt s.pc := by
  rw [State.fetchedChar_eq_charOfBytes]
  rfl

/-- Settles O9: a rejected character is a row of R115 by its major opcode, and the fetch of one stops
the step; the two parameters' characters fall to the default rows of their maps. -/
theorem reservedCharactersRefused : Obligations.ReservedCharactersRefused := by
  refine ⟨fun w => decodeChar_default_error_iff_reserved, ?_, ?_, ?_⟩
  · intro s hcfg hquiet hfetch hcpfx hreserved
    have hcharacter : Reserved (s.sample.turn.charAt s.pc) := hreserved
    obtain ⟨e, he⟩ := decodeChar_default_error_iff_reserved.mpr hcharacter
    rw [← fetchedChar_sample_eq_charAt, ← hcfg] at he
    exact ⟨e, step_refused_of_decode_error hquiet hfetch hcpfx he⟩
  · intro cfg c hcall
    refine (decodeChar_callS (.inr (.inr rfl)) c).trans ?_
    simp [hcall]
  · intro cfg hri
    rw [decodeChar_of_misc rfl, decodeMisc_of_unassigned rfl]
    simp [hri]

end Sys2Proof

/-! The constant and CP (30_encoding.md R102 to R108, 46_misc.md R250 to R252). -/

namespace Sys2Proof.Machine

variable {s : State}

/-! ## Behind a CP (R108, R252) -/

theorem withoutPriorPrefix_of (h : s.cpfx = .none) (k : Out) : withoutPriorPrefix s k = k := by
  simp [withoutPriorPrefix, h]

theorem withoutPriorPrefix_ready {u : BitVec 28} (h : s.cpfx = .ready u) (k : Out) :
    withoutPriorPrefix s k = .refused .prefixAfterPrefix := by
  simp [withoutPriorPrefix, h]

theorem exec_prefix_ready {i : Instr} {u : BitVec 28} (h : s.cpfx = .ready u)
    (hcp : isPrefix i = true) : exec i s = .refused .prefixAfterPrefix := by
  cases i with
  | cp0 | cp1 => exact withoutPriorPrefix_ready h _
  | _ => cases hcp

/-- Every instruction without a constant passes the same gate. -/
theorem exec_nonConstant_ready {i : Instr} {u : BitVec 28} (h : s.cpfx = .ready u)
    (hconst : takesConstant i = false) (hcp : isPrefix i = false) :
    exec i s = .refused .prefixedNonConstant := by
  cases i with
  | addI | lea | subI | cmpI | adcI | subrI | sbcI | xorI | andI | orI | negR | notR | jal | jmp
  | callR | ret | sb | sc | sw | lb | lc | lw => cases hconst
  | cp0 | cp1 => cases hcp
  | _ => exact State.withoutPrefix_ready h _

theorem isPrefix_of_takesConstant {i : Instr} (h : takesConstant i = true) :
    isPrefix i = false := by
  cases i with
  | cp0 | cp1 => cases h
  | _ => rfl

/-- Settles O28: the two gates refuse, and an instruction that is no CP leaves none pending. -/
theorem prefixBeforeEveryInstruction : Obligations.PrefixBeforeEveryInstruction := by
  intro i s u hready
  refine ⟨exec_nonConstant_ready hready, exec_prefix_ready hready, fun hconst t h => ?_⟩
  exact (exec_effect h).othersKept.cpfx (isPrefix_of_takesConstant hconst)

/-! ## Known characters and the four-bit constants -/

/-- Settles O8: each of the twenty characters is decoded by evaluation. -/
theorem knownCharactersDecode : Obligations.KnownCharactersDecode := by
  unfold Obligations.KnownCharactersDecode
  decide

/-- Settles O25: the sixteen nibbles, by evaluation. -/
theorem fourBitConstants : Obligations.FourBitConstants := by
  unfold Obligations.FourBitConstants
  decide

/-! ## The constant by the state of CP (R104 to R106) -/

theorem State.constant_of_none (h : s.cpfx = .none) (raw : BitVec 4) :
    s.constant raw = some (s.fit (BitVec.ofInt 32 (c4dec raw))) :=
  State.constant_isSome.mpr (.inl ⟨h, rfl⟩)

theorem State.constant_of_ready {u : BitVec 28} (h : s.cpfx = .ready u) (raw : BitVec 4) :
    s.constant raw = some (s.fit (u ++ raw)) :=
  State.constant_isSome.mpr (.inr ⟨u, h, rfl⟩)

/-- The twelve bits of a CP may be sign extended before or behind the raw nibble is put to them. -/
theorem signExtend_append_nibble (c : BitVec 12) (raw : BitVec 4) :
    (c.signExtend 28 ++ raw : BitVec 32) = (c ++ raw : BitVec 16).signExtend 32 := by
  apply BitVec.eq_of_getLsbD_eq
  intro k hk
  have hmsb : (c ++ raw).msb = c.msb := by rw [BitVec.msb_append]; simp
  simp only [BitVec.getLsbD_append, BitVec.getLsbD_signExtend, hmsb]
  by_cases hnibble : k < 4
  · have hlow : k < 16 := by omega
    simp [hk, hnibble, hlow]
  · have hhigh : k - 4 < 28 := by omega
    have hconst : k - 4 < 12 ↔ k < 16 := by omega
    simp [hk, hnibble, hhigh, hconst]

/-- Settles O26: the constant by the state of CP, behind a CP with size 0 the sign extension of its
twelve bits and the raw nibble. -/
theorem constantsAndShortPrefix : Obligations.ConstantsAndShortPrefix := by
  intro s raw hnone
  refine ⟨State.constant_of_none hnone raw, fun c => ⟨_, exec_cp0_eq hnone, ?_⟩⟩
  rw [State.constant_of_ready rfl, signExtend_append_nibble]
  rfl

/-! ## The constant character (R251) -/

/-- Where a constant character is due the step takes the character as data. -/
theorem step_of_half {c : BitVec 12} (hhalf : s.cpfx = .half c) (hquiet : s.Quiet)
    (hfetch : s.Fetchable) :
    step s = .next { s.behindFetch with cpfx := .ready (s.sample.fetchedChar ++ c) } := by
  rcases State.fetchTask_cases hfetch.fetchRefusal_sample with ⟨c', hc', htask⟩ | ⟨hno, -⟩
  · obtain rfl : c' = c := Cpfx.half.inj (hc'.symm.trans hhalf)
    exact step_next.mpr (.inl (hquiet.task.trans htask))
  · exact absurd hhalf (hno c)

theorem exec_cp1_w16 (h : s.cpfx = .none) (hx : s.cfg.xlen = .w16) (c : BitVec 12) :
    exec (.cp1 c) s = .refused .only32Bit :=
  (withoutPriorPrefix_of h _).trans (by rw [hx])

/-- Settles O11: CP, the constant character behind it, and the constant those two make. -/
theorem sizeOnePrefixSequence : Obligations.SizeOnePrefixSequence := by
  refine ⟨fun s c hx hnone => exec_cp1_eq hnone hx, ?_, ?_,
    fun s c hx hnone => exec_cp1_w16 hnone hx c⟩
  · intro s c hhalf hquiet hfetch
    rw [← fetchedChar_sample_eq_charAt]
    exact step_of_half hhalf hquiet hfetch
  · intro s k c raw hx hready
    rw [State.constant_of_ready hready, State.fit, hx, Xlen.fit_w32]

end Sys2Proof.Machine

/-! Addition, subtraction and comparison (40_arithmetic.md R130 to R144). -/

namespace Sys2Proof.Machine

variable {s : State} {rd rs : RegNo} {imm : Word}

/-! ## Encodings and gates -/

/-- An instruction that every configuration encodes, and encodes the same. -/
theorem Encodes.of_encode {w : Char16} {i : Instr} (hwf : ∀ cfg, WellFormed cfg i = true)
    (hw : ∀ cfg, encode cfg i = w) : Encodes w i :=
  fun cfg => ⟨hw cfg, hw cfg ▸ decodeOfEncode cfg i (hwf cfg)⟩

theorem NotPrefixable.of_not_takesConstant {i : Instr} (hconst : takesConstant i = false)
    (hcp : isPrefix i = false) : NotPrefixable i :=
  fun _ _ hready => exec_nonConstant_ready hready hconst hcp

/-! ## With no CP pending -/

theorem State.writeAlu_add_of_none (h : s.cpfx = .none) (rd : RegNo) (a b : Word) (cin : Bool) :
    SumWritten s (s.writeAlu rd (s.add a b cin)) rd a b cin := by
  have hsum := State.writeAlu_add s rd a b cin
  rwa [State.clearCpfx_of s h] at hsum

theorem State.writeAlu_sub_of_none (h : s.cpfx = .none) (rd : RegNo) (a b : Word) (bin : Bool) :
    DiffWritten s (s.writeAlu rd (s.sub a b bin)) rd a b bin := by
  have hdiff := State.writeAlu_sub s rd a b bin
  rwa [State.clearCpfx_of s h] at hdiff

/-! ## What each instruction leaves -/

theorem exec_addR_sumWritten (h : s.cpfx = .none) :
    ∃ t, exec (.addR rd rs) s = .next t ∧
      SumWritten s t rd (s.readReg rd) (s.readReg rs) false :=
  ⟨_, exec_addR_eq h, State.writeAlu_add_of_none h ..⟩

theorem exec_adcR_sumWritten (h : s.cpfx = .none) :
    ∃ t, exec (.adcR rd rs) s = .next t ∧
      SumWritten s t rd (s.readReg rd) (s.readReg rs) s.flagC :=
  ⟨_, exec_adcR_eq h, State.writeAlu_add_of_none h ..⟩

theorem exec_subR_diffWritten (h : s.cpfx = .none) :
    ∃ t, exec (.subR rd rs) s = .next t ∧
      DiffWritten s t rd (s.readReg rd) (s.readReg rs) false :=
  ⟨_, exec_subR_eq h, State.writeAlu_sub_of_none h ..⟩

theorem exec_sbcR_diffWritten (h : s.cpfx = .none) :
    ∃ t, exec (.sbcR rd rs) s = .next t ∧
      DiffWritten s t rd (s.readReg rd) (s.readReg rs) s.borrowIn :=
  ⟨_, exec_sbcR_eq h, State.writeAlu_sub_of_none h ..⟩

/-- CMP has the flags of SUB and no destination. -/
theorem exec_cmpR_diffFlags (h : s.cpfx = .none) :
    ∃ t, exec (.cmpR rd rs) s = .next t ∧ RegsKept s t ∧
      DiffFlags s t (s.readReg rd) (s.readReg rs) false ∧ DataOnly s t :=
  ⟨_, exec_cmpR_eq h, fun _ => rfl, State.setNVCZ_sub ..,
    { pc := rfl, cpfx := h, stale := rfl, mem := fun _ => rfl, system := by constructor <;> rfl }⟩

theorem exec_negR_diffWritten (h : s.constant 0x0#4 = some imm) :
    ∃ t, exec (.negR rd) s = .next t ∧ DiffWritten s t rd imm (s.readReg rd) false :=
  ⟨_, exec_negR_eq h, State.writeAlu_sub ..⟩

theorem State.constant_zero_of_none (h : s.cpfx = .none) :
    s.constant 0x0#4 = some 0x00000000#32 :=
  (State.constant_of_none h _).trans (congrArg some s.fit_zero)

/-- The borrow-in is C in the sense of SUB_CARRY_SENSE (00_scope.md R11, D34). -/
theorem State.borrowIn_eq {bin : Bool} (hborrow : s.cfg.subCarrySense = .borrow → bin = s.flagC)
    (hnot : s.cfg.subCarrySense = .notBorrow → bin = !s.flagC) : s.borrowIn = bin := by
  unfold State.borrowIn
  cases hsense : s.cfg.subCarrySense with
  | borrow => exact (hborrow hsense).symm
  | notBorrow => exact (hnot hsense).symm

/-! ## The instructions one by one -/

/-- Settles O29: two additions of registers, with no carry in and with C. -/
theorem addRegisters : Obligations.AddRegisters := by
  intro s rd rs
  exact ⟨.of_encode (fun _ => rfl) fun _ => rfl, .of_not_takesConstant rfl rfl,
    .of_encode (fun _ => rfl) fun _ => rfl, .of_not_takesConstant rfl rfl,
    fun hnone => ⟨exec_addR_sumWritten hnone, exec_adcR_sumWritten hnone⟩⟩

/-- Settles O30: LEA is the ADD of a constant; all three write a sum and use up a pending CP. -/
theorem addConstants : Obligations.AddConstants := by
  intro s rd rs n
  refine ⟨.of_encode (fun _ => rfl) fun _ => rfl, .of_encode (fun _ => rfl) fun _ => rfl,
    .of_encode (fun _ => rfl) fun _ => rfl, fun imm himm => ⟨?add, ?lea, ?adc⟩⟩
  case add => exact ⟨_, exec_addI_eq himm, State.writeAlu_add ..⟩
  case lea => exact ⟨_, exec_lea_eq himm, State.writeAlu_add ..⟩
  case adc => exact ⟨_, exec_adcI_eq himm, State.writeAlu_add ..⟩

/-- Settles O31: SUB writes the difference and its flags, CMP the flags alone. -/
theorem subtractRegisters : Obligations.SubtractRegisters := by
  intro s rd rs
  exact ⟨.of_encode (fun _ => rfl) fun _ => rfl, .of_not_takesConstant rfl rfl,
    .of_encode (fun _ => rfl) fun _ => rfl, .of_not_takesConstant rfl rfl,
    fun hnone => ⟨exec_subR_diffWritten hnone, exec_cmpR_diffFlags hnone⟩⟩

/-- Settles O32: both subtract with the borrow-in that the carry sense makes of C. -/
theorem subtractWithBorrow : Obligations.SubtractWithBorrow := by
  intro s rd rs n
  refine ⟨.of_encode (fun _ => rfl) fun _ => rfl, .of_not_takesConstant rfl rfl,
    .of_encode (fun _ => rfl) fun _ => rfl, fun bin hborrow hnot => ?_⟩
  obtain rfl := State.borrowIn_eq hborrow hnot
  exact ⟨exec_sbcR_diffWritten, fun imm himm => ⟨_, exec_sbcI_eq himm, State.writeAlu_sub ..⟩⟩

/-- Settles O33: NEG is SUBR with the nibble 0, whose constant is zero when no CP is pending. The
name `reverseSubtract` is the model's. -/
theorem reverseSubtract_holds : Obligations.ReverseSubtract := by
  intro s rd n
  exact ⟨.of_encode (fun _ => rfl) fun _ => rfl, .of_encode (fun _ => rfl) fun _ => rfl,
    fun imm himm => ⟨_, exec_subrI_eq himm, State.writeAlu_sub ..⟩,
    fun imm himm => exec_negR_diffWritten himm,
    fun hnone => exec_negR_diffWritten (State.constant_zero_of_none hnone)⟩

end Sys2Proof.Machine

/-! Subtraction by adding the negative (40_arithmetic.md R133, R135, R136, D28). -/

namespace Sys2Proof.Machine

variable {s t : State} {rd rs : RegNo} {a k : Word} {x : Xlen}

theorem State.RegsFit.readReg_lt (h : s.RegsFit) (q : RegNo) :
    (s.readReg q).toNat < 2 ^ s.cfg.xlen.bits :=
  (Xlen.fit_eq_iff _ _).mp (h q)

/-! ## Adding -k, in integers -/

theorem Xlen.fit_neg_toNat (hk : k.toNat < 2 ^ x.bits) :
    (x.fit (-k)).toNat = (2 ^ x.bits - k.toNat) % 2 ^ x.bits := by
  rw [Xlen.fit_toNat, BitVec.toNat_neg]
  cases x <;> simp only [Xlen.bits] at hk ⊢ <;> omega

theorem Xlen.fit_sub_toNat (ha : a.toNat < 2 ^ x.bits) (hk : k.toNat < 2 ^ x.bits) :
    (x.fit (a - k)).toNat = sumOf a (x.fit (-k)) false % 2 ^ x.bits := by
  rw [sumOf, Xlen.fit_neg_toNat hk, Xlen.fit_toNat, BitVec.toNat_sub]
  cases x <;> simp only [Xlen.bits, Bool.toNat_false] at ha hk ⊢ <;> omega

theorem State.fit_sub_toNat (ha : a.toNat < 2 ^ s.cfg.xlen.bits)
    (hk : k.toNat < 2 ^ s.cfg.xlen.bits) :
    (s.fit (a - k)).toNat = sumOf a (s.fit (-k)) false % 2 ^ s.cfg.xlen.bits :=
  Xlen.fit_sub_toNat ha hk

/-- Adding -k carries out exactly when k is not 0 and does not exceed the other operand. -/
theorem carry_add_neg_iff (ha : a.toNat < 2 ^ x.bits) (hk : k.toNat < 2 ^ x.bits) :
    2 ^ x.bits ≤ sumOf a (x.fit (-k)) false ↔ k ≠ 0x00000000#32 ∧ k.toNat ≤ a.toNat := by
  rw [sumOf, Xlen.fit_neg_toNat hk, ne_eq, ← BitVec.toNat_inj]
  cases x <;> simp only [Xlen.bits, Bool.toNat_false, BitVec.toNat_ofNat] at ha hk ⊢ <;> omega

theorem sum_add_neg_eq_zero_iff (ha : a.toNat < 2 ^ x.bits) (hk : k.toNat < 2 ^ x.bits) :
    sumOf a (x.fit (-k)) false % 2 ^ x.bits = 0 ↔ a = k := by
  rw [sumOf, Xlen.fit_neg_toNat hk, ← BitVec.toNat_inj]
  cases x <;> simp only [Xlen.bits, Bool.toNat_false] at ha hk ⊢ <;> omega

/-- Every number of W bits but -2^(W-1) has its negative among the numbers of W bits. -/
theorem signedOf_fit_neg (hk : k.toNat < 2 ^ x.bits) (hmin : k.toNat ≠ 2 ^ (x.bits - 1)) :
    signedOf x (x.fit (-k)) = -signedOf x k := by
  rw [signedOf, signedOf, Xlen.fit_neg_toNat hk]
  cases x <;> simp only [Xlen.bits] at hk hmin ⊢ <;> split_ifs <;> omega

/-- The sign bit of a value that fits in W bits. -/
theorem msbOf_iff (ha : a.toNat < 2 ^ x.bits) : msbOf x a = true ↔ 2 ^ (x.bits - 1) ≤ a.toNat := by
  have h := msbOf_ofNat x ha
  rw [BitVec.ofNat_toNat, BitVec.setWidth_eq] at h
  exact (congrArg (· = true) h).to_iff.trans decide_eq_true_iff

/-! ## The addition of -k, read as the subtraction of k -/

namespace SumWritten

variable (hsum : SumWritten s t rd a (s.fit (-k)) false) (ha : a.toNat < 2 ^ s.cfg.xlen.bits)
  (hk : k.toNat < 2 ^ s.cfg.xlen.bits)

include hsum hk

theorem flagV_iff_of_neg (hmin : k.toNat ≠ 2 ^ (s.cfg.xlen.bits - 1)) :
    t.flagV = true ↔
      SignedOverflow s.cfg.xlen (signedOf s.cfg.xlen a - signedOf s.cfg.xlen k) := by
  have hneg : signedOf s.cfg.xlen (s.fit (-k)) = -signedOf s.cfg.xlen k :=
    signedOf_fit_neg hk hmin
  have hv := hsum.flags.v
  rwa [hneg, Bool.toNat_false, Int.natCast_zero, add_zero, ← sub_eq_add_neg] at hv

include ha

theorem writesReg_of_neg : WritesReg s t rd (s.fit (a - k)) := by
  have hregs := hsum.regs
  rwa [← State.fit_sub_toNat ha hk, BitVec.ofNat_toNat, BitVec.setWidth_eq] at hregs

theorem flagC_iff_of_neg : t.flagC = true ↔ k ≠ 0x00000000#32 ∧ k.toNat ≤ a.toNat :=
  hsum.flags.c.trans (carry_add_neg_iff ha hk)

theorem flagZ_iff_of_neg : t.flagZ = true ↔ a = k :=
  hsum.flags.z.trans (sum_add_neg_eq_zero_iff ha hk)

theorem flagN_of_neg : t.flagN = (s.fit (a - k)).getLsbD (s.cfg.xlen.bits - 1) := by
  have hn := hsum.flags.n
  rw [← State.fit_sub_toNat ha hk] at hn
  exact Bool.eq_iff_iff.mpr (hn.trans (msbOf_iff (Xlen.fit_lt _ _)).symm)

end SumWritten

/-- Writing r0 keeps every register. -/
theorem WritesReg.regsKept {r : Word} (h : WritesReg s t 0x0#4 r) : RegsKept s t :=
  fun q => (h q).trans (if_neg fun hq => hq.2 hq.1)

/-- Settles O34: both add the constant -k, CMP into r0, and the sum and its flags are read as those of
Rs - k. -/
theorem immediateSubtractAndCompare : Obligations.ImmediateSubtractAndCompare := by
  intro s rd rs n
  refine ⟨.of_encode (fun _ => rfl) fun _ => rfl, .of_encode (fun _ => rfl) fun _ => rfl,
    fun k hregs hkfit hconst => ?_⟩
  have ha : (s.readReg rs).toNat < 2 ^ s.cfg.xlen.bits := hregs.readReg_lt rs
  have hk : k.toNat < 2 ^ s.cfg.xlen.bits := (Xlen.fit_eq_iff _ _).mp hkfit
  constructor
  · have hsum := State.writeAlu_add s rd (s.readReg rs) (s.fit (-k)) false
    exact ⟨_, exec_subI_eq hconst, hsum.writesReg_of_neg ha hk, hsum.rest, hsum.flags.kept,
      hsum.flagC_iff_of_neg ha hk, hsum.flagZ_iff_of_neg ha hk, hsum.flagN_of_neg ha hk,
      hsum.flagV_iff_of_neg hk⟩
  · have hcmp := State.writeAlu_add s 0x0#4 (s.readReg rs) (s.fit (-k)) false
    exact ⟨_, _, exec_cmpI_eq hconst, exec_subI_eq hconst, hcmp.regs.regsKept, hcmp.rest, rfl⟩

end Sys2Proof.Machine

/-! Numbers of 2W bits in two registers (40_arithmetic.md R130, R137, R140, D7). -/

namespace Sys2Proof.Machine

/-! ## Two digits to the base 2^W -/

/-- The number whose high and low digits two registers hold. -/
def doubleOf (x : Xlen) (hi lo : Word) : Int := hi.toNat * 2 ^ x.bits + lo.toNat

section Digits

variable {x : Xlen} {hi lo hi' lo' : Word}

/-- A number modulo m * m is its last two digits to the base m. -/
theorem emod_mul_self_eq_digits {m : Int} (hm : 0 < m) (c : Int) :
    c % (m * m) = c / m % m * m + c % m := by
  have hhigh := Int.emod_add_mul_ediv (c / m) m
  have hlow := Int.emod_add_mul_ediv c m
  rw [Int.emod_def c (m * m), ← Int.ediv_ediv_of_nonneg hm.le]
  linear_combination -hlow - m * hhigh

theorem doubleOf_eq_emod {c : Int} (hhi : (hi.toNat : Int) = c / 2 ^ x.bits % 2 ^ x.bits)
    (hlo : (lo.toNat : Int) = c % 2 ^ x.bits) :
    doubleOf x hi lo = c % (2 ^ x.bits * 2 ^ x.bits) := by
  rw [doubleOf, hhi, hlo, emod_mul_self_eq_digits (by positivity)]

theorem doubleOf_add (x : Xlen) (hi lo hi' lo' : Word) : doubleOf x hi lo + doubleOf x hi' lo' =
    (hi.toNat + hi'.toNat) * 2 ^ x.bits + sumOf lo lo' false := by
  simp only [doubleOf, sumOf, Bool.toNat_false]
  push_cast
  ring

theorem doubleOf_sub (x : Xlen) (hi lo hi' lo' : Word) : doubleOf x hi lo - doubleOf x hi' lo' =
    (hi.toNat - hi'.toNat) * 2 ^ x.bits + diffOf lo lo' false := by
  simp only [doubleOf, diffOf, Bool.toNat_false]
  push_cast
  ring

/-- The low digit of a sum is that of the low digits' sum. -/
theorem doubleOf_add_emod (x : Xlen) (hi lo hi' lo' : Word) :
    (doubleOf x hi lo + doubleOf x hi' lo') % 2 ^ x.bits =
      (sumOf lo lo' false : Int) % 2 ^ x.bits := by
  rw [doubleOf_add, Int.mul_add_emod_self_right]

/-- What is left of a sum above the low digit is the high digits' sum with the carry. -/
theorem doubleOf_add_ediv {c : Bool} (hlo : lo.toNat < 2 ^ x.bits) (hlo' : lo'.toNat < 2 ^ x.bits)
    (hc : c = true ↔ 2 ^ x.bits ≤ sumOf lo lo' false) :
    (doubleOf x hi lo + doubleOf x hi' lo') / 2 ^ x.bits = sumOf hi hi' c := by
  have hcarry : (sumOf lo lo' false : Int) / 2 ^ x.bits = c.toNat := by
    simp only [sumOf, Bool.toNat_false] at hc ⊢
    cases x <;> cases c <;>
      simp only [Xlen.bits, Bool.toNat_false, Bool.toNat_true, reduceCtorEq, false_iff, true_iff]
        at hlo hlo' hc ⊢ <;> omega
  rw [doubleOf_add, Int.mul_add_ediv_right _ _ (by positivity), hcarry]
  rfl

theorem doubleOf_sub_emod (x : Xlen) (hi lo hi' lo' : Word) :
    (doubleOf x hi lo - doubleOf x hi' lo') % 2 ^ x.bits =
      diffOf lo lo' false % 2 ^ x.bits := by
  rw [doubleOf_sub, Int.mul_add_emod_self_right]

/-- What is left of a difference above the low digit is the high digits' difference less the borrow. -/
theorem doubleOf_sub_ediv {bin : Bool} (hlo : lo.toNat < 2 ^ x.bits)
    (hlo' : lo'.toNat < 2 ^ x.bits) (hbin : bin = true ↔ diffOf lo lo' false < 0) :
    (doubleOf x hi lo - doubleOf x hi' lo') / 2 ^ x.bits = diffOf hi hi' bin := by
  have hborrow : diffOf lo lo' false / 2 ^ x.bits = -bin.toNat := by
    simp only [diffOf, Bool.toNat_false] at hbin ⊢
    cases x <;> cases bin <;>
      simp only [Xlen.bits, Bool.toNat_false, Bool.toNat_true, reduceCtorEq, false_iff, true_iff]
        at hlo hlo' hbin ⊢ <;> omega
  rw [doubleOf_sub, Int.mul_add_ediv_right _ _ (by positivity), hborrow]
  rfl

end Digits

/-! ## The registers that an instruction writes and leaves -/

section Registers

variable {s t u : State} {rd q : RegNo} {r : Word}

theorem WritesReg.readReg_same (h : WritesReg s t rd r) (hrd : rd ≠ 0x0#4) : t.readReg rd = r :=
  (h rd).trans (if_pos ⟨rfl, hrd⟩)

theorem WritesReg.readReg_other (h : WritesReg s t rd r) (hq : q ≠ rd) :
    t.readReg q = s.readReg q :=
  (h q).trans (if_neg fun hsame => hq hsame.1)

variable {a b : Word} {cin bin : Bool}

theorem SumWritten.readReg_toNat (h : SumWritten s t rd a b cin) (hrd : rd ≠ 0x0#4) :
    ((t.readReg rd).toNat : Int) = (sumOf a b cin : Int) % 2 ^ s.cfg.xlen.bits := by
  rw [h.regs.readReg_same hrd, BitVec.toNat_ofNat]
  cases s.cfg.xlen <;> simp only [Xlen.bits] <;> omega

theorem DiffWritten.readReg_toNat (h : DiffWritten s t rd a b bin) (hrd : rd ≠ 0x0#4) :
    ((t.readReg rd).toNat : Int) = diffOf a b bin % 2 ^ s.cfg.xlen.bits := by
  rw [h.regs.readReg_same hrd, BitVec.toNat_ofInt]
  cases s.cfg.xlen <;> simp only [Xlen.bits] <;> omega

/-- Behind a subtraction the borrow-in of the next is this one's borrow, in either carry sense. -/
theorem DiffWritten.borrowIn_iff (h : DiffWritten s t rd a b bin) :
    t.borrowIn = true ↔ diffOf a b bin < 0 := by
  unfold State.borrowIn
  rw [h.rest.system.cfg]
  cases hsense : s.cfg.subCarrySense with
  | borrow => exact h.flags.cBorrow hsense
  | notBorrow =>
    have hc := h.flags.cNotBorrow hsense
    rw [carryOfBorrow, Bool.not_eq_true', ← Bool.not_eq_true, hc, not_le]

/-! ## Low digits, then high digits -/

variable {lo hi lo' hi' : RegNo} {c : Int} (hs : s.RegsFit) (hlo : lo ≠ 0x0#4) (hhi : hi ≠ 0x0#4)
  (hne : lo ≠ hi) (hne' : lo ≠ hi')

include hs hlo hhi hne hne'

theorem SumWritten.doubleOf_add
    (ht : SumWritten s t lo (s.readReg lo) (s.readReg lo') false)
    (hu : SumWritten t u hi (t.readReg hi) (t.readReg hi') t.flagC)
    (hsum : c = doubleOf s.cfg.xlen (s.readReg hi) (s.readReg lo) +
      doubleOf s.cfg.xlen (s.readReg hi') (s.readReg lo')) :
    doubleOf s.cfg.xlen (u.readReg hi) (u.readReg lo) =
      c % (2 ^ s.cfg.xlen.bits * 2 ^ s.cfg.xlen.bits) ∧
    (u.flagC = true ↔ 2 ^ s.cfg.xlen.bits * 2 ^ s.cfg.xlen.bits ≤ c) := by
  rw [ht.regs.readReg_other hne.symm, ht.regs.readReg_other hne'.symm] at hu
  have hhigh : c / 2 ^ s.cfg.xlen.bits = sumOf (s.readReg hi) (s.readReg hi') t.flagC :=
    hsum ▸ doubleOf_add_ediv (hs.readReg_lt lo) (hs.readReg_lt lo') ht.flags.c
  have hcarry := hu.flags.c
  have hdigit := hu.readReg_toNat hhi
  rw [ht.rest.system.cfg] at hcarry hdigit
  constructor
  · refine doubleOf_eq_emod (hhigh ▸ hdigit) ?_
    rw [hu.regs.readReg_other hne, ht.readReg_toNat hlo, hsum, doubleOf_add_emod]
  · rw [hcarry, ← Int.le_ediv_iff_mul_le (by positivity), hhigh]
    exact_mod_cast Iff.rfl

theorem DiffWritten.doubleOf_sub
    (ht : DiffWritten s t lo (s.readReg lo) (s.readReg lo') false)
    (hu : DiffWritten t u hi (t.readReg hi) (t.readReg hi') t.borrowIn)
    (hdiff : c = doubleOf s.cfg.xlen (s.readReg hi) (s.readReg lo) -
      doubleOf s.cfg.xlen (s.readReg hi') (s.readReg lo')) :
    doubleOf s.cfg.xlen (u.readReg hi) (u.readReg lo) =
      c % (2 ^ s.cfg.xlen.bits * 2 ^ s.cfg.xlen.bits) ∧
    (s.cfg.subCarrySense = .borrow → (u.flagC = true ↔ c < 0)) ∧
    (s.cfg.subCarrySense = .notBorrow → (u.flagC = true ↔ 0 ≤ c)) := by
  rw [ht.regs.readReg_other hne.symm, ht.regs.readReg_other hne'.symm] at hu
  have hhigh : c / 2 ^ s.cfg.xlen.bits = diffOf (s.readReg hi) (s.readReg hi') t.borrowIn :=
    hdiff ▸ doubleOf_sub_ediv (hs.readReg_lt lo) (hs.readReg_lt lo') ht.borrowIn_iff
  have hsign : 0 ≤ c ↔ 0 ≤ diffOf (s.readReg hi) (s.readReg hi') t.borrowIn := by
    rw [← hhigh, Int.ediv_nonneg_iff_of_pos (by positivity)]
  have hborrow := hu.flags.cBorrow
  have hnotBorrow := hu.flags.cNotBorrow
  have hdigit := hu.readReg_toNat hhi
  rw [ht.rest.system.cfg] at hborrow hnotBorrow hdigit
  refine ⟨doubleOf_eq_emod (hhigh ▸ hdigit) ?_, fun hsense => ?_, fun hsense => ?_⟩
  · rw [hu.regs.readReg_other hne, ht.readReg_toNat hlo, hdiff, doubleOf_sub_emod]
  · rw [hborrow hsense, ← not_le, ← not_le, hsign]
  · rw [hnotBorrow hsense, hsign]

end Registers

/-- Settles O36: the low digits make a sum or difference whose carry or borrow goes into that of the
high digits, so the two digits are those of the whole. -/
theorem doubleWidthArithmetic : Obligations.DoubleWidthArithmetic := by
  intro s lo hi lo' hi' hnone hregs hlo hhi hne hne' m a b
  constructor
  · obtain ⟨t, hexec, ht⟩ := exec_addR_sumWritten (rd := lo) (rs := lo') hnone
    obtain ⟨u, hexec', hu⟩ := exec_adcR_sumWritten (rd := hi) (rs := hi') ht.rest.cpfx
    exact ⟨t, u, hexec, hexec', SumWritten.doubleOf_add hregs hlo hhi hne hne' ht hu rfl⟩
  · obtain ⟨t, hexec, ht⟩ := exec_subR_diffWritten (rd := lo) (rs := lo') hnone
    obtain ⟨u, hexec', hu⟩ := exec_sbcR_diffWritten (rd := hi) (rs := hi') ht.rest.cpfx
    obtain ⟨hvalue, hborrow, hnotBorrow⟩ :=
      DiffWritten.doubleOf_sub hregs hlo hhi hne hne' ht hu (c := a - b) rfl
    exact ⟨t, u, hexec, hexec', hvalue, fun hsense => (hborrow hsense).trans sub_neg,
      fun hsense => (hnotBorrow hsense).trans sub_nonneg⟩

end Sys2Proof.Machine

/-! Logical operations, NOT, and the zero and sign extensions (41_logical.md R150 to R161). -/

namespace Sys2Proof.Machine

variable {s : State} {rd : RegNo} {n : BitVec 4} {imm r : Word} {x : Xlen}

/-! ## Results that fit in W bits -/

/-- Among the numbers of W bits the complement is the XOR with W ones. -/
theorem Xlen.xor_fit_allOnes {a : Word} (ha : x.fit a = a) :
    a ^^^ x.fit (BitVec.allOnes 32) = x.fit (~~~a) := by
  apply BitVec.eq_of_getLsbD_eq
  intro i hi
  simp only [BitVec.getLsbD_xor, Xlen.fit_getLsbD, BitVec.getLsbD_allOnes, BitVec.getLsbD_not, hi,
    decide_true, Bool.true_and]
  by_cases hin : i < x.bits
  · simp [hin]
  · simp [hin, (Xlen.fit_eq_self x a).mp ha i (not_lt.mp hin)]

theorem zextTo_eq_ofNat {k : Nat} (hk : k ≤ x.bits) (v : BitVec k) :
    zextTo x v = BitVec.ofNat 32 v.toNat := by
  rw [zextTo, ← BitVec.ofNat_toNat]
  exact Xlen.fit_ofNat x (v.isLt.trans_le (Nat.pow_le_pow_right two_pos hk))

/-- The low `k` bits of a word, zero extended, are the word modulo 2^k. -/
theorem zextTo_extractLsb' {k : Nat} (hk : k ≤ x.bits) (a : Word) :
    zextTo x (a.extractLsb' 0 k) = BitVec.ofNat 32 (a.toNat % 2 ^ k) := by
  rw [zextTo_eq_ofNat hk, BitVec.extractLsb'_toNat, Nat.shiftRight_zero]

/-- A sign extended number is the number modulo 2^W. -/
theorem sextTo_eq_ofInt {k : Nat} (v : BitVec k) :
    sextTo x v = BitVec.ofInt 32 (v.toInt % 2 ^ x.bits) := by
  apply BitVec.eq_of_toNat_eq
  rw [sextTo, Xlen.fit_toNat, BitVec.signExtend, BitVec.toNat_ofInt, BitVec.toNat_ofInt]
  cases x <;> simp only [Xlen.bits] <;> omega

theorem Xlen.sixteen_le_bits (x : Xlen) : 16 ≤ x.bits := by
  rcases Xlen.bits_cases x with h | h <;> omega

/-! ## With no CP pending -/

theorem State.writeNZ_written_of_none (h : s.cpfx = .none) (hr : s.fit r = r) :
    NZWritten s (s.writeNZ rd r) rd r := by
  have hwritten := State.writeNZ_written s rd r hr
  rwa [State.clearCpfx_of s h] at hwritten

/-- With no CP pending the nibble F is the constant -1. -/
theorem State.constant_F_of_none (h : s.cpfx = .none) :
    s.constant 0xF#4 = some (s.fit (BitVec.allOnes 32)) :=
  State.constant_of_none h _

theorem exec_notR_written (hregs : s.RegsFit) (h : s.constant 0xF#4 = some imm) :
    ∃ t, exec (.notR rd) s = .next t ∧ NZWritten s t rd (s.readReg rd ^^^ imm) :=
  ⟨_, exec_notR_eq h,
    State.writeNZ_written _ _ _ (Xlen.fit_xor _ (hregs rd) (State.constant_fit h))⟩

/-- An instruction that writes the zero extension of the low `k` bits of Rd. -/
theorem zext_written {i : Instr} {k : Nat} (h : s.cpfx = .none) (hk : k ≤ s.cfg.xlen.bits)
    (hexec : exec i s = .next (s.writeNZ rd
      (zextTo s.cfg.xlen ((s.readReg rd).extractLsb' 0 k)))) :
    ∃ t, exec i s = .next t ∧
      NZWritten s t rd (BitVec.ofNat 32 ((s.readReg rd).toNat % 2 ^ k)) :=
  ⟨_, hexec, zextTo_extractLsb' hk _ ▸ State.writeNZ_written_of_none h (State.fit_fit _ _)⟩

/-- An instruction that writes the sign extension of the low `k` bits of Rd. -/
theorem sext_written {i : Instr} {k : Nat} (h : s.cpfx = .none)
    (hexec : exec i s = .next (s.writeNZ rd
      (sextTo s.cfg.xlen ((s.readReg rd).extractLsb' 0 k)))) :
    ∃ t, exec i s = .next t ∧ NZWritten s t rd
      (BitVec.ofInt 32 (((s.readReg rd).extractLsb' 0 k).toInt % 2 ^ s.cfg.xlen.bits)) :=
  ⟨_, hexec, sextTo_eq_ofInt (x := s.cfg.xlen) _ ▸
    State.writeNZ_written_of_none h (State.fit_fit _ _)⟩

/-! ## The instructions one by one -/

/-- Settles O37: a bitwise result of two registers fits in W bits as they do. -/
theorem logicalRegisters : Obligations.LogicalRegisters := by
  intro s rd rs
  refine ⟨.of_encode (fun _ => rfl) fun _ => rfl, .of_not_takesConstant rfl rfl,
    .of_encode (fun _ => rfl) fun _ => rfl, .of_not_takesConstant rfl rfl,
    .of_encode (fun _ => rfl) fun _ => rfl, .of_not_takesConstant rfl rfl,
    fun hregs hnone => ⟨?and, ?or, ?xor⟩⟩
  case and =>
    exact ⟨_, exec_andR_eq hnone,
      State.writeNZ_written_of_none hnone (Xlen.fit_and _ _ (hregs rd))⟩
  case or =>
    exact ⟨_, exec_orR_eq hnone,
      State.writeNZ_written_of_none hnone (Xlen.fit_or _ (hregs rd) (hregs rs))⟩
  case xor =>
    exact ⟨_, exec_xorR_eq hnone,
      State.writeNZ_written_of_none hnone (Xlen.fit_xor _ (hregs rd) (hregs rs))⟩

/-- Settles O38: as for registers, since a constant fits in W bits too; with no CP pending the constant
of NOT is W ones. -/
theorem logicalConstants : Obligations.LogicalConstants := by
  intro s rd n
  refine ⟨.of_encode (fun _ => rfl) fun _ => rfl, .of_encode (fun _ => rfl) fun _ => rfl,
    .of_encode (fun _ => rfl) fun _ => rfl, .of_encode (fun _ => rfl) fun _ => rfl,
    fun hregs => ⟨fun imm himm => ⟨?and, ?or, ?xor⟩, fun imm himm => exec_notR_written hregs himm,
      fun hnone => ?complement⟩⟩
  case and =>
    exact ⟨_, exec_andI_eq himm, State.writeNZ_written _ _ _ (Xlen.fit_and _ _ (hregs rd))⟩
  case or =>
    exact ⟨_, exec_orI_eq himm,
      State.writeNZ_written _ _ _ (Xlen.fit_or _ (hregs rd) (State.constant_fit himm))⟩
  case xor =>
    exact ⟨_, exec_xorI_eq himm,
      State.writeNZ_written _ _ _ (Xlen.fit_xor _ (hregs rd) (State.constant_fit himm))⟩
  case complement =>
    have hnot : s.readReg rd ^^^ s.fit (BitVec.allOnes 32) = s.fit (~~~s.readReg rd) :=
      Xlen.xor_fit_allOnes (hregs rd)
    exact hnot ▸ exec_notR_written hregs (State.constant_F_of_none hnone)

/-- Settles O39: a zero extension is a remainder by a power of two, a sign extension the signed number
modulo 2^W. -/
theorem extensions : Obligations.Extensions := by
  intro s rd
  refine ⟨.of_encode (fun _ => rfl) fun _ => rfl, .of_not_takesConstant rfl rfl,
    .of_encode (fun _ => rfl) fun _ => rfl, .of_not_takesConstant rfl rfl,
    .of_encode (fun _ => rfl) fun _ => rfl, .of_not_takesConstant rfl rfl,
    .of_encode (fun _ => rfl) fun _ => rfl, .of_not_takesConstant rfl rfl, fun hnone => ?_⟩
  have hchar : 16 ≤ s.cfg.xlen.bits := Xlen.sixteen_le_bits _
  have hbyte : 8 ≤ s.cfg.xlen.bits := le_trans (by decide) hchar
  exact ⟨zext_written hnone hbyte (exec_zxb_eq hnone), zext_written hnone hchar (exec_zxc_eq hnone),
    sext_written hnone (exec_sxb_eq hnone), sext_written hnone (exec_sxc_eq hnone)⟩

end Sys2Proof.Machine

/-! Shifts and rotates by one bit (42_shifts.md R170 to R175). -/

namespace Sys2Proof.Machine

variable {s : State} {rd : RegNo} {a r : Word} {x : Xlen} {i : Instr}

/-! ## The shifted value, in integers -/

theorem lowBit_toNat (b : Bool) : (lowBit b).toNat = b.toNat := by
  cases b <;> rfl

theorem topBit_toNat (x : Xlen) (b : Bool) : (topBit x b).toNat = b.toNat * 2 ^ (x.bits - 1) := by
  cases x <;> cases b <;> rfl

theorem lowBit_getLsbD_succ (b : Bool) (k : Nat) : (lowBit b).getLsbD (k + 1) = false := by
  rw [BitVec.getLsbD, lowBit_toNat, Nat.testBit_add_one]
  cases b <;> exact Nat.zero_testBit k

theorem topBit_getLsbD_of_lt (b : Bool) {k : Nat} (hk : k < x.bits - 1) :
    (topBit x b).getLsbD k = false := by
  rw [BitVec.getLsbD, topBit_toNat, Nat.testBit_mul_two_pow, decide_eq_false (not_le.mpr hk),
    Bool.false_and]

/-- A left shift leaves bit 0 free for the bit that enters. -/
theorem shiftLeft_and_lowBit (x : Xlen) (a : Word) (b : Bool) :
    x.fit (a <<< 1) &&& lowBit b = 0x00000000#32 := by
  apply BitVec.eq_of_getLsbD_eq
  intro k _
  rw [BitVec.getLsbD_and, Xlen.fit_getLsbD]
  cases k with
  | zero => simp
  | succ k => simp [lowBit_getLsbD_succ]

/-- A right shift of a number of W bits leaves bit W-1 free for the bit that enters. -/
theorem shiftRight_and_topBit (ha : x.fit a = a) (b : Bool) :
    (a >>> 1) &&& topBit x b = 0x00000000#32 := by
  apply BitVec.eq_of_getLsbD_eq
  intro k _
  rw [BitVec.getLsbD_and, BitVec.getLsbD_ushiftRight]
  by_cases hk : k < x.bits - 1
  · simp [topBit_getLsbD_of_lt b hk]
  · simp [(Xlen.fit_eq_self x a).mp ha (1 + k) (by omega)]

/-- Shifting left doubles modulo 2^W and adds the bit that enters. -/
theorem shiftLeftIn_toNat (x : Xlen) (a : Word) (b : Bool) :
    (shiftLeftIn x a b).toNat = 2 * a.toNat % 2 ^ x.bits + b.toNat := by
  have hb := b.toNat_le
  rw [shiftLeftIn, ← BitVec.add_eq_or_of_and_eq_zero _ _ (shiftLeft_and_lowBit x a b),
    BitVec.toNat_add, Xlen.fit_toNat, lowBit_toNat, BitVec.toNat_shiftLeft, Nat.shiftLeft_eq]
  cases x <;> simp only [Xlen.bits] <;> omega

/-- Shifting right halves, rounding down, and adds the bit that enters at its weight. -/
theorem shiftRightIn_toNat (ha : x.fit a = a) (b : Bool) :
    (shiftRightIn x a b).toNat = a.toNat / 2 + b.toNat * 2 ^ (x.bits - 1) := by
  have hb := b.toNat_le
  have hlt : a.toNat < 2 ^ x.bits := (Xlen.fit_eq_iff x a).mp ha
  rw [shiftRightIn, ← BitVec.add_eq_or_of_and_eq_zero _ _ (shiftRight_and_topBit ha b),
    BitVec.toNat_add, topBit_toNat, BitVec.toNat_ushiftRight, Nat.shiftRight_eq_div_pow]
  cases x <;> simp only [Xlen.bits] at hlt ⊢ <;> omega

theorem Xlen.fit_shiftLeftIn (x : Xlen) (a : Word) (b : Bool) :
    x.fit (shiftLeftIn x a b) = shiftLeftIn x a b := by
  have hb := b.toNat_le
  rw [Xlen.fit_eq_iff, shiftLeftIn_toNat]
  cases x <;> simp only [Xlen.bits] <;> omega

theorem Xlen.fit_shiftRightIn (ha : x.fit a = a) (b : Bool) :
    x.fit (shiftRightIn x a b) = shiftRightIn x a b := by
  have hb := b.toNat_le
  have hlt : a.toNat < 2 ^ x.bits := (Xlen.fit_eq_iff x a).mp ha
  rw [Xlen.fit_eq_iff, shiftRightIn_toNat ha]
  cases x <;> simp only [Xlen.bits] at hlt ⊢ <;> omega

/-- Halving the signed number puts the sign bit in at bit W-1. -/
theorem signedOf_half_emod (ha : a.toNat < 2 ^ x.bits) :
    signedOf x a / 2 % 2 ^ x.bits =
      ((a.toNat / 2 + (msbOf x a).toNat * 2 ^ (x.bits - 1) : Nat) : Int) := by
  rw [signedOf]
  split_ifs with hsign
  · have hmsb : msbOf x a = false :=
      Bool.eq_false_iff.mpr fun h => hsign.not_ge ((msbOf_iff ha).mp h)
    rw [hmsb]
    cases x <;> simp only [Xlen.bits, Bool.toNat_false] at ha ⊢ <;> omega
  · have hmsb : msbOf x a = true := (msbOf_iff ha).mpr (not_lt.mp hsign)
    rw [hmsb]
    cases x <;> simp only [Xlen.bits, Bool.toNat_true] at ha hsign ⊢ <;> omega

/-! ## What each direction leaves -/

theorem State.writeNCZ_written_of_none (h : s.cpfx = .none) (hr : s.fit r = r) (c : Bool) :
    ShiftWritten s (s.writeNCZ rd r c) rd r c := by
  have hwritten := State.writeNCZ_written s rd r c hr
  rwa [State.clearCpfx_of s h] at hwritten

/-- An instruction that shifts Rd left, `b` entering. -/
theorem shiftLeft_written {b : Bool} (h : s.cpfx = .none)
    (hexec : exec i s = .next (s.writeNCZ rd (shiftLeftIn s.cfg.xlen (s.readReg rd) b)
      (msbOf s.cfg.xlen (s.readReg rd)))) :
    ∃ t, exec i s = .next t ∧ ShiftWritten s t rd
      (BitVec.ofNat 32 (2 * (s.readReg rd).toNat % 2 ^ s.cfg.xlen.bits + b.toNat))
      ((s.readReg rd).getLsbD (s.cfg.xlen.bits - 1)) := by
  rw [← shiftLeftIn_toNat, BitVec.ofNat_toNat, BitVec.setWidth_eq]
  exact ⟨_, hexec, State.writeNCZ_written_of_none h (Xlen.fit_shiftLeftIn _ _ _) _⟩

/-- An instruction that shifts Rd right, `b` entering. -/
theorem shiftRight_written {b : Bool} (hregs : s.RegsFit) (h : s.cpfx = .none)
    (hexec : exec i s = .next (s.writeNCZ rd (shiftRightIn s.cfg.xlen (s.readReg rd) b)
      ((s.readReg rd).getLsbD 0))) :
    ∃ t, exec i s = .next t ∧ ShiftWritten s t rd
      (BitVec.ofNat 32 ((s.readReg rd).toNat / 2 + b.toNat * 2 ^ (s.cfg.xlen.bits - 1)))
      ((s.readReg rd).getLsbD 0) := by
  rw [← shiftRightIn_toNat (hregs rd), BitVec.ofNat_toNat, BitVec.setWidth_eq]
  exact ⟨_, hexec, State.writeNCZ_written_of_none h (Xlen.fit_shiftRightIn (hregs rd) _) _⟩

/-! ## The instructions one by one -/

/-- Settles O40: a zero enters in SHL and SHR, the sign bit in ASR. -/
theorem shifts : Obligations.Shifts := by
  intro s rd
  refine ⟨.of_encode (fun _ => rfl) fun _ => rfl, .of_not_takesConstant rfl rfl,
    .of_encode (fun _ => rfl) fun _ => rfl, .of_not_takesConstant rfl rfl,
    .of_encode (fun _ => rfl) fun _ => rfl, .of_not_takesConstant rfl rfl,
    fun hregs hnone => ⟨?shl, ?shr, ?asr⟩⟩
  case shl => exact shiftLeft_written hnone (exec_shl_eq hnone)
  case shr => simpa using shiftRight_written hregs hnone (exec_shr_eq hnone)
  case asr =>
    rw [signedOf_half_emod (hregs.readReg_lt rd), BitVec.ofInt_natCast]
    exact shiftRight_written hregs hnone (exec_asr_eq hnone)

/-- Settles O41: the bit that leaves enters, or the old C. -/
theorem rotates : Obligations.Rotates := by
  intro s rd
  refine ⟨.of_encode (fun _ => rfl) fun _ => rfl, .of_not_takesConstant rfl rfl,
    .of_encode (fun _ => rfl) fun _ => rfl, .of_not_takesConstant rfl rfl,
    fun hregs hnone => ⟨?rol, ?ror⟩⟩
  case rol => exact shiftLeft_written hnone (exec_rol_eq hnone)
  case ror => exact shiftRight_written hregs hnone (exec_ror_eq hnone)

end Sys2Proof.Machine

/-! Program flow control (43_flow_control.md R180 to R202). -/

namespace Sys2Proof.Machine

variable {s : State}

/-! ## Branches (R180) -/

@[simp] theorem State.fit_target (s : State) (d : BitVec 9) : s.fit (s.target d) = s.target d :=
  s.fit_fit _

/-- A branch moves the pc to its target, or leaves it, and changes nothing else. -/
theorem State.branchIf_eq_with (s : State) (b : Bool) (d : BitVec 9) :
    s.branchIf b d = { s with pc := if b then s.target d else s.pc } := by
  cases b with
  | false => rfl
  | true => exact congrArg (fun p => { s with pc := p }) (s.fit_target d)

/-- A row of R114 has its one character in format br. -/
theorem Encodes.of_decodeBranch {code : BitVec 4} {d : BitVec 9} {i : Instr}
    (hrow : decodeBranch code d = .ok i) : Encodes (branchChar code d) i := by
  intro cfg
  have hspells : Spells cfg (branchChar code d) i := decodeBranch_spells hrow
  rw [hspells.core_eq, decodeChar_branchChar]
  exact ⟨hspells.encode_eq, hrow⟩

/-- No row of R114 takes a constant. -/
theorem NotPrefixable.of_decodeBranch {code : BitVec 4} {d : BitVec 9} {i : Instr}
    (hrow : decodeBranch code d = .ok i) : NotPrefixable i := by
  unfold decodeBranch at hrow
  split at hrow
  case h_15 => cases hrow
  all_goals
    obtain rfl := Except.ok.inj hrow
    exact .of_not_takesConstant rfl rfl

namespace Branches

variable {code : BitVec 4} {mk : BitVec 9 → Instr} {test : State → Bool}

/-- A row of R114 whose instruction moves the pc by a test is the branch of that test. -/
theorem of_decodeBranch (hrow : ∀ d, decodeBranch code d = .ok (mk d))
    (hexec : ∀ {s : State} {d : BitVec 9}, s.cpfx = .none →
      exec (mk d) s = .next (s.branchIf (test s) d)) : Branches code mk test :=
  fun s d => ⟨.of_decodeBranch (hrow d), .of_decodeBranch (hrow d),
    fun hnone => (hexec hnone).trans (congrArg _ (s.branchIf_eq_with _ d))⟩

/-- A branch whose test says that `P` holds is taken exactly when `P` holds. -/
theorem exec_of_iff (h : Branches code mk test) (hnone : s.cpfx = .none) {P : Prop} [Decidable P]
    (hP : test s = true ↔ P) (d : BitVec 9) :
    exec (mk d) s = .next { s with pc := if P then s.target d else s.pc } := by
  obtain ⟨-, -, hexec⟩ := h s d
  rw [hexec hnone, if_congr hP rfl rfl]

end Branches

/-! The rows of R114 that are branches, each with its condition code and test. -/

theorem branches_blt : Branches 0x0#4 .blt State.testLT :=
  .of_decodeBranch (fun _ => rfl) exec_blt_eq

theorem branches_bge : Branches 0x1#4 .bge State.testGE :=
  .of_decodeBranch (fun _ => rfl) exec_bge_eq

theorem branches_ble : Branches 0x2#4 .ble State.testLE :=
  .of_decodeBranch (fun _ => rfl) exec_ble_eq

theorem branches_bgt : Branches 0x3#4 .bgt State.testGT :=
  .of_decodeBranch (fun _ => rfl) exec_bgt_eq

theorem branches_bltu : Branches 0x4#4 .bltu State.testLTU :=
  .of_decodeBranch (fun _ => rfl) exec_bltu_eq

theorem branches_bgeu : Branches 0x5#4 .bgeu State.testGEU :=
  .of_decodeBranch (fun _ => rfl) exec_bgeu_eq

theorem branches_bleu : Branches 0x6#4 .bleu State.testLEU :=
  .of_decodeBranch (fun _ => rfl) exec_bleu_eq

theorem branches_bgtu : Branches 0x7#4 .bgtu State.testGTU :=
  .of_decodeBranch (fun _ => rfl) exec_bgtu_eq

theorem branches_beq : Branches 0x8#4 .beq State.testEQ :=
  .of_decodeBranch (fun _ => rfl) exec_beq_eq

theorem branches_bne : Branches 0x9#4 .bne State.testNE :=
  .of_decodeBranch (fun _ => rfl) exec_bne_eq

theorem branches_bmi : Branches 0xA#4 .bmi State.testMI :=
  .of_decodeBranch (fun _ => rfl) exec_bmi_eq

theorem branches_bpl : Branches 0xB#4 .bpl State.testPL :=
  .of_decodeBranch (fun _ => rfl) exec_bpl_eq

theorem branches_bra : Branches 0xE#4 .bra (fun _ => true) :=
  .of_decodeBranch (fun _ => rfl) exec_bra_eq

/-- Settles O42: the four branches with a signed test. -/
theorem signedBranches : Obligations.SignedBranches :=
  ⟨branches_blt, branches_bge, branches_ble, branches_bgt⟩

/-- Settles O43: the four branches with an unsigned test, in either carry sense. -/
theorem unsignedBranches : Obligations.UnsignedBranches :=
  ⟨branches_bltu, branches_bgeu, branches_bleu, branches_bgtu⟩

/-- Settles O44: the branches that test one flag, and the one that tests none. -/
theorem flagBranches : Obligations.FlagBranches :=
  ⟨branches_beq, branches_bne, branches_bmi, branches_bpl, branches_bra⟩

/-! ## Calls and jumps (R194, R197 to R202) -/

/-- What a jump that links leaves: the return address in `rd`, any pending CP used up (R197). -/
theorem State.linkedJump (hpc : s.fit s.pc = s.pc) (rd : RegNo) (p : Word) :
    LinkedJump s ((s.clearCpfx.writeReg rd s.pc).jump p) rd (s.fit p) where
  regs q := by
    have hread := s.clearCpfx.readReg_writeReg rd q s.pc
    rwa [show s.clearCpfx.fit s.pc = s.pc from hpc] at hread
  pc := rfl
  rest :=
    { sr := rfl, cpfx := rfl, stale := rfl, mem := fun _ => rfl, system := by constructor <;> rfl }

theorem State.linkedJump_of_none (hpc : s.fit s.pc = s.pc) (hnone : s.cpfx = .none) (rd : RegNo)
    (p : Word) : LinkedJump s ((s.writeReg rd s.pc).jump p) rd (s.fit p) := by
  have hjump := State.linkedJump hpc rd p
  rwa [State.clearCpfx_of s hnone] at hjump

/-- Settles O45: both spellings jump to the target and link in r15. -/
theorem relativeCalls : Obligations.RelativeCalls := by
  intro s d
  refine ⟨.of_decodeBranch rfl, .of_encode (fun _ => rfl) fun _ => rfl,
    .of_not_takesConstant rfl rfl, .of_not_takesConstant rfl rfl, fun hnone hpc => ?_⟩
  have hcall := State.linkedJump_of_none hpc hnone 0xF#4 (s.target d)
  rw [s.fit_target] at hcall
  exact ⟨⟨_, exec_bsr_eq hnone, hcall⟩, ⟨_, exec_callPc_eq hnone, hcall⟩⟩

/-- The pc behind a jump to `x[Rs] + imm` (R197). -/
theorem State.linkedJump_ea (hpc : s.fit s.pc = s.pc) (rd rs : RegNo) (imm : Word) :
    LinkedJump s ((s.clearCpfx.writeReg rd s.pc).jump (s.ea rs imm)) rd
      (s.fit (s.readReg rs + imm)) := by
  have hjump := State.linkedJump hpc rd (s.ea rs imm)
  rwa [State.ea, s.fit_fit] at hjump

/-- A jump whose link goes to r0 keeps every register (R198, R202). -/
theorem LinkedJump.unlinked {t : State} {p : Word} (h : LinkedJump s t 0x0#4 p) :
    RegsKept s t ∧ t.pc = p ∧ TransferOnly s t :=
  ⟨h.regs.regsKept, h.pc, h.rest⟩

theorem exec_ret_jump (hpc : s.fit s.pc = s.pc) {imm : Word} (h : s.constant 0x0#4 = some imm) :
    ∃ t, exec .ret s = .next t ∧ RegsKept s t ∧ t.pc = s.fit (s.readReg 0xF#4 + imm) ∧
      TransferOnly s t :=
  ⟨_, exec_ret_eq h, (State.linkedJump_ea hpc 0x0#4 0xF#4 imm).unlinked⟩

/-- Settles O46: JMP, CALL and RET are JAL with r0, r15 and r0 for the link; with no CP pending the
constant of RET is zero. The name `jumpAndLink` is the model's. -/
theorem jumpAndLink_holds : Obligations.JumpAndLink := by
  intro s rd rs n
  refine ⟨.of_encode (fun _ => rfl) fun _ => rfl, .of_encode (fun _ => rfl) fun _ => rfl,
    .of_encode (fun _ => rfl) fun _ => rfl, .of_encode (fun _ => rfl) fun _ => rfl,
    fun hpc => ⟨fun imm himm => ⟨?jal, ?jmp, ?callR⟩, fun imm => exec_ret_jump hpc, ?ret⟩⟩
  case jal => exact ⟨_, exec_jal_eq himm, State.linkedJump_ea hpc rd rs imm⟩
  case jmp => exact ⟨_, exec_jmp_eq himm, (State.linkedJump_ea hpc 0x0#4 rs imm).unlinked⟩
  case callR => exact ⟨_, exec_callR_eq himm, State.linkedJump_ea hpc 0xF#4 rs imm⟩
  case ret =>
    intro hnone hregs
    have hret := exec_ret_jump hpc (State.constant_zero_of_none hnone)
    rwa [BitVec.add_zero, hregs] at hret

/-! ## The short CALL (R199, D5, D23) -/

theorem State.atBankEdge_w32 (hx : s.cfg.xlen = .w32) :
    s.atBankEdge = true ↔ s.pc.extractLsb' 0 16 = 0x0000#16 := by
  rw [State.atBankEdge, hx]
  exact beq_iff_eq

theorem State.atBankEdge_w16 (hx : s.cfg.xlen = .w16) : s.atBankEdge = false := by
  rw [State.atBankEdge, hx]

theorem exec_callS_bankEdge (hnone : s.cpfx = .none) (hedge : s.atBankEdge = true)
    (a : BitVec 12) : exec (.callS a) s = .refused (.bankEdgeCall s.pc) :=
  (State.withoutPrefix_of hnone _).trans (if_pos hedge)

/-- In the sixteen-bit version nothing of the bank is left in the target. -/
theorem fit_w16_append (hi : BitVec 16) (a : BitVec 12) :
    Xlen.fit .w16 (hi ++ a ++ 0x0#4) = (a ++ 0x0#4 : BitVec 16).setWidth 32 := by
  apply BitVec.eq_of_getLsbD_eq
  intro k hk
  rw [Xlen.fit_getLsbD, BitVec.getLsbD_setWidth]
  simp only [BitVec.getLsbD_append, Xlen.bits]
  by_cases hlow : k < 16
  · have hmid : k - 4 < 12 := by omega
    simp [hk, hlow, hmid]
  · have hzero : ¬ k < 4 := by omega
    have hout : a.getLsbD (k - 4) = false := BitVec.getLsbD_of_ge _ _ (by omega)
    simp [hlow, hzero, hout]

theorem exec_callS_linkedJump (hnone : s.cpfx = .none) (hpc : s.fit s.pc = s.pc)
    (hedge : s.atBankEdge = false) (a : BitVec 12) :
    ∃ t, exec (.callS a) s = .next t ∧ LinkedJump s t 0xF#4 (s.bankTarget a) := by
  have hcall := State.linkedJump_of_none hpc hnone 0xF#4 (s.bankTarget a)
  rw [show s.fit (s.bankTarget a) = s.bankTarget a from s.fit_fit _] at hcall
  exact ⟨_, exec_callS_eq hnone hedge, hcall⟩

/-- Settles O47: the bank edge is refused in the thirty-two bit version alone, and the target is cut
to the machine's width. -/
theorem shortCall : Obligations.ShortCall := by
  refine ⟨fun cfg op a hop4 hop => ⟨?encode, ?decode⟩, fun s a => ⟨.of_not_takesConstant rfl rfl,
    fun hnone hpc => ⟨fun hx hinside => ?w32, fun hx hedge => ?edge, fun hx => ?w16⟩⟩⟩
  case encode =>
    rw [encode, hop4]
    rfl
  case decode => exact (decodeChar_callS hop a).trans (if_pos hop4)
  case w32 =>
    have hedge : s.atBankEdge = false :=
      Bool.not_eq_true _ ▸ mt (State.atBankEdge_w32 hx).mp hinside
    have hcall := exec_callS_linkedJump hnone hpc hedge a
    rwa [State.bankTarget, State.fit, hx, Xlen.fit_w32] at hcall
  case edge => exact exec_callS_bankEdge hnone ((State.atBankEdge_w32 hx).mpr hedge) a
  case w16 =>
    have hcall := exec_callS_linkedJump hnone hpc (State.atBankEdge_w16 hx) a
    rwa [State.bankTarget, State.fit, hx, fit_w16_append] at hcall

end Sys2Proof.Machine

/-! A comparison and the branch behind it (43_flow_control.md R181, D34). -/

namespace Sys2Proof.Machine

variable {s t : State} {a b : Word} {x : Xlen}

/-! ## Differences of numbers of W bits -/

theorem signedOf_inj (ha : a.toNat < 2 ^ x.bits) (hb : b.toNat < 2 ^ x.bits) :
    signedOf x a = signedOf x b ↔ a = b := by
  rw [← BitVec.toNat_inj, signedOf, signedOf]
  cases x <;> simp only [Xlen.bits] at ha hb ⊢ <;> split_ifs <;> omega

/-- A difference of numbers of W bits is zero modulo 2^W for equal numbers alone. -/
theorem diffOf_emod_eq_zero_iff (ha : a.toNat < 2 ^ x.bits) (hb : b.toNat < 2 ^ x.bits) :
    diffOf a b false % 2 ^ x.bits = 0 ↔ a = b := by
  rw [← BitVec.toNat_inj, diffOf, Bool.toNat_false]
  cases x <;> simp only [Xlen.bits] at ha hb ⊢ <;> omega

/-- The sign of the difference is that of the exact one, but for a signed overflow. -/
theorem sign_ne_overflow_iff (ha : a.toNat < 2 ^ x.bits) (hb : b.toNat < 2 ^ x.bits) :
    ¬(2 ^ (x.bits - 1) ≤ diffOf a b false % 2 ^ x.bits ↔
      SignedOverflow x (signedOf x a - signedOf x b)) ↔ signedOf x a < signedOf x b := by
  simp only [SignedOverflow, diffOf, signedOf, Bool.toNat_false]
  cases x <;> simp only [Xlen.bits] at ha hb ⊢ <;> split_ifs <;> omega

/-! ## The tests behind a comparison -/

theorem State.testGEU_eq (s : State) : s.testGEU = !s.testLTU := by
  unfold State.testGEU State.testLTU
  cases s.cfg.subCarrySense <;> simp

theorem State.testGTU_eq (s : State) : s.testGTU = !s.testLEU := by
  unfold State.testGTU State.testLEU
  cases s.cfg.subCarrySense <;> simp

theorem State.testLEU_eq (s : State) : s.testLEU = (s.testLTU || s.testEQ) := by
  unfold State.testLEU State.testLTU State.testEQ
  cases s.cfg.subCarrySense <;> cases s.flagC <;> simp

namespace DiffFlags

variable (h : DiffFlags s t a b false)

include h

theorem testMI_iff :
    t.testMI = true ↔ 2 ^ (s.cfg.xlen.bits - 1) ≤ diffOf a b false % 2 ^ s.cfg.xlen.bits :=
  h.n

variable (ha : a.toNat < 2 ^ s.cfg.xlen.bits) (hb : b.toNat < 2 ^ s.cfg.xlen.bits)

include ha hb

theorem testEQ_iff : t.testEQ = true ↔ a = b :=
  h.z.trans (diffOf_emod_eq_zero_iff ha hb)

theorem testLT_iff : t.testLT = true ↔ signedOf s.cfg.xlen a < signedOf s.cfg.xlen b := by
  have hv := h.v
  rw [Bool.toNat_false, Int.natCast_zero, sub_zero] at hv
  rw [State.testLT, Bool.xor_iff_ne, ne_eq, Bool.eq_iff_iff, h.n, hv]
  exact sign_ne_overflow_iff ha hb

theorem testLE_iff : t.testLE = true ↔ signedOf s.cfg.xlen a ≤ signedOf s.cfg.xlen b := by
  have hlt : (t.flagN ^^ t.flagV) = true ↔ _ := h.testLT_iff ha hb
  have heq : t.flagZ = true ↔ _ := h.testEQ_iff ha hb
  rw [State.testLE, Bool.or_eq_true, hlt, heq, ← signedOf_inj ha hb, le_iff_lt_or_eq]

variable (hcfg : t.cfg = s.cfg)

include hcfg

/-- Under either carry sense the unsigned tests are those of the borrow. -/
theorem testLTU_iff : t.testLTU = true ↔ a.toNat < b.toNat := by
  have hz : t.flagZ = true ↔ _ := h.testEQ_iff ha hb
  rw [← BitVec.toNat_inj] at hz
  rw [State.testLTU, hcfg]
  cases hsense : s.cfg.subCarrySense with
  | borrow =>
    have hc := h.cBorrow hsense
    simp only [hc, diffOf, Bool.toNat_false]
    omega
  | notBorrow =>
    have hc := h.cNotBorrow hsense
    simp only [Bool.and_eq_true, Bool.not_eq_true', ← Bool.not_eq_true, hc, hz, diffOf,
      Bool.toNat_false]
    omega

theorem testLEU_iff : t.testLEU = true ↔ a.toNat ≤ b.toNat := by
  rw [State.testLEU_eq, Bool.or_eq_true, h.testLTU_iff ha hb hcfg, h.testEQ_iff ha hb,
    ← BitVec.toNat_inj, le_iff_lt_or_eq]

end DiffFlags

/-- The negation of a test says the negation of what the test says. -/
theorem not_test_iff {test : Bool} {P Q : Prop} (h : test = true ↔ P) (hPQ : ¬P ↔ Q) :
    (!test) = true ↔ Q := by
  rw [Bool.not_eq_true', ← Bool.not_eq_true, h, hPQ]

/-- Settles O35: each test behind CMP, read from the flags of the difference; six of the twelve are
the negations of the others. -/
theorem compareThenBranch : Obligations.CompareThenBranch := by
  intro s t rd rs d hregs hcmp
  obtain ⟨hnone, -⟩ := State.withoutPrefix_next.mp hcmp
  obtain ⟨u, hu, -, hflags, hrest⟩ := exec_cmpR_diffFlags (rd := rd) (rs := rs) hnone
  obtain rfl : t = u := Host.Outcome.next.inj (hcmp.symm.trans hu)
  have ha := hregs.readReg_lt rd
  have hb := hregs.readReg_lt rs
  have hcfg := hrest.system.cfg
  have hlt := hflags.testLT_iff ha hb
  have hle := hflags.testLE_iff ha hb
  have hltu := hflags.testLTU_iff ha hb hcfg
  have hleu := hflags.testLEU_iff ha hb hcfg
  have heq := hflags.testEQ_iff ha hb
  have hmi := hflags.testMI_iff
  have hgeu := t.testGEU_eq ▸ not_test_iff hltu not_lt
  have hgtu := t.testGTU_eq ▸ not_test_iff hleu not_le
  have hafter := hrest.cpfx
  exact ⟨branches_blt.exec_of_iff hafter hlt d,
    branches_bge.exec_of_iff hafter (not_test_iff hlt not_lt) d,
    branches_ble.exec_of_iff hafter hle d,
    branches_bgt.exec_of_iff hafter (not_test_iff hle not_le) d,
    branches_bltu.exec_of_iff hafter hltu d,
    branches_bgeu.exec_of_iff hafter hgeu d,
    branches_bleu.exec_of_iff hafter hleu d,
    branches_bgtu.exec_of_iff hafter hgtu d,
    branches_beq.exec_of_iff hafter heq d,
    branches_bne.exec_of_iff hafter (not_test_iff heq Iff.rfl) d,
    branches_bmi.exec_of_iff hafter hmi d,
    branches_bpl.exec_of_iff hafter (not_test_iff hmi not_le) d⟩

end Sys2Proof.Machine

/-! Interrupt management instructions (44_interrupt_management.md R210 to R221). -/

namespace Sys2Proof.Machine

variable {s : State}

/-! ## The system calls (R210, 60_exceptions.md R275) -/

theorem State.sysCall_eq_entered (s : State) (v : BitVec 4) (ret : Word) :
    s.sysCall v ret = s.entered v.toNat ret := rfl

theorem NotPrefixable.of_isSystemCall {i : Instr} (h : isSystemCall i = true) :
    NotPrefixable i := by
  cases i with
  | brk | sys | trc | dbg | irq | nmi | reset => exact .of_not_takesConstant rfl rfl
  | _ => cases h

/-- A system-call instruction that enters its vector whatever the state calls that vector. -/
theorem CallsVector.of_sysCall {w : Char16} {i : Instr} {v : BitVec 4} (hw : Encodes w i)
    (hcall : isSystemCall i = true)
    (hexec : ∀ {s : State}, s.cpfx = .none → exec i s = .next (s.sysCall v s.pc)) :
    CallsVector w i v.toNat :=
  ⟨hw, .of_isSystemCall hcall,
    fun s hnone => (hexec hnone).trans (congrArg _ (s.sysCall_eq_entered v s.pc))⟩

/-! The instructions that are a call of one vector, each with its character. -/

theorem callsVector_brk : CallsVector 0x0000#16 .brk 0 :=
  .of_sysCall (.of_encode (fun _ => rfl) fun _ => rfl) rfl exec_brk_eq

theorem callsVector_sys : CallsVector 0x0001#16 .sys 1 :=
  .of_sysCall (.of_encode (fun _ => rfl) fun _ => rfl) rfl exec_sys_eq

theorem callsVector_trc : CallsVector 0x000B#16 .trc 11 :=
  .of_sysCall (.of_encode (fun _ => rfl) fun _ => rfl) rfl exec_trc_eq

theorem callsVector_dbg : CallsVector 0x000C#16 .dbg 12 :=
  .of_sysCall (.of_encode (fun _ => rfl) fun _ => rfl) rfl exec_dbg_eq

theorem callsVector_nmi : CallsVector 0x000E#16 .nmi 14 :=
  .of_sysCall (.of_encode (fun _ => rfl) fun _ => rfl) rfl exec_nmi_eq

theorem callsVector_reset : CallsVector 0x000F#16 .reset 15 :=
  .of_sysCall (.of_encode (fun _ => rfl) fun _ => rfl) rfl exec_reset_eq

/-- Settles O18: the four calls that R211, R212, R216 and R217 give. -/
theorem systemCallInstructions : Obligations.SystemCallInstructions :=
  ⟨callsVector_brk, callsVector_sys, callsVector_nmi, callsVector_reset⟩

/-- Settles O19: the two calls whose characters are the spec's decision D27. -/
theorem traceAndDebugCalls : Obligations.TraceAndDebugCalls :=
  ⟨callsVector_trc, callsVector_dbg⟩

/-- Settles O20: behind the gate IRQ asks for I, and its entry is that of vector 13. -/
theorem irqInstruction : Obligations.IrqInstruction := by
  refine ⟨.of_encode (fun _ => rfl) fun _ => rfl, .of_isSystemCall rfl, fun s hnone => ?_⟩
  have hentry : s.sysCall 0xD#4 s.pc = s.entered 13 s.pc := s.sysCall_eq_entered 0xD#4 s.pc
  rw [exec_irq_eq hnone, hentry]

theorem exec_irq_of_masked (hnone : s.cpfx = .none) (hmasked : s.flagI = true) :
    exec .irq s = .next s := by
  rw [exec_irq_eq hnone, if_pos hmasked]

/-! ## The interrupt mask (R218 to R220) -/

/-- Bit 7 of SR is set, or masked out. -/
theorem State.setI_eq_with (s : State) (b : Bool) :
    s.setI b = { s with sr := if b = true then s.sr ||| 0x0080#16 else s.sr &&& 0xFF7F#16 } := by
  refine congrArg (fun r => { s with sr := r }) (BitVec.eq_of_getLsbD_eq fun k hk => ?_)
  rw [blend_getLsbD _ _ _ _ hk]
  cases b <;> interval_cases k <;> simp

@[simp] theorem State.setI_flagI (s : State) (b : Bool) : (s.setI b).flagI = b := by
  have hbit := blend_getLsbD s.sr 0x0080#16 (if b then 0x0080#16 else 0x0000#16) 7 (by decide)
  cases b <;> exact hbit

/-- At a boundary with no CP pending a high `irq` is taken when I is clear and no NMI is pending
(60_exceptions.md R281, R284). -/
theorem step_takes_irq (hrst : s.inputsNow.rst = false) (hrunning : s.stopped = false)
    (hnone : s.cpfx = .none) (hpending : s.sample.nmiPending = false)
    (hirq : s.inputsNow.irq = true) (hclear : s.flagI = false) :
    step s = .next (s.sample.entered 13 s.pc) := by
  obtain ⟨-, -, -, -, -, -, htaken⟩ := hardwareInterruptsTaken s
  obtain ⟨-, htakeIrq⟩ := htaken hrst hrunning hnone
  exact htakeIrq hpending hirq hclear

/-- Settles O21: EI and DI write I and leave no CP pending, so a high `irq` is taken behind EI, IRQ is
ignored behind DI, and NMI, which does not ask for I, is taken there. -/
theorem interruptMaskInstructions : Obligations.InterruptMaskInstructions := by
  refine ⟨.of_encode (fun _ => rfl) fun _ => rfl, .of_not_takesConstant rfl rfl,
    .of_encode (fun _ => rfl) fun _ => rfl, .of_not_takesConstant rfl rfl,
    fun s hnone => ⟨?ei, ?di⟩, ?behindEi, ?behindDi⟩
  case ei => exact (exec_ei_eq hnone).trans (congrArg _ (s.setI_eq_with false))
  case di => exact (exec_di_eq hnone).trans (congrArg _ (s.setI_eq_with true))
  case behindEi =>
    intro s t hei hrunning hrst hpending hirq
    obtain ⟨hnone, hnext⟩ := State.withoutPrefix_next.mp hei
    obtain rfl := Host.Outcome.next.inj hnext
    exact step_takes_irq hrst hrunning hnone hpending hirq (s.setI_flagI false)
  case behindDi =>
    intro s t hdi
    obtain ⟨hnone, hnext⟩ := State.withoutPrefix_next.mp hdi
    obtain rfl := Host.Outcome.next.inj hnext
    obtain ⟨-, -, hnmi⟩ := callsVector_nmi
    exact ⟨exec_irq_of_masked hnone (s.setI_flagI true), hnmi _ hnone⟩

/-- Settles O22: RI writes I as EI and DI do, by bit 15; under the default parameters RI has an encoding
(D6), which decodes back. -/
theorem restoreInterruptMask : Obligations.RestoreInterruptMask :=
  ⟨rfl, decodeOfEncode Config.default .ri rfl, .of_not_takesConstant rfl rfl,
    fun s hnone => (exec_ri_eq hnone).trans (congrArg _ (s.setI_eq_with _))⟩

/-! ## The return (R221) -/

theorem State.sysReturn_eq_with (s : State) (d : Word) :
    s.sysReturn d = { s with
      pc := s.fit (s.ilr + d)
      sr := s.sr.extractLsb' 8 8 ++ s.sr.extractLsb' 8 8 } := rfl

/-- Settles O23: the displacement is the four-bit constant `c4dec`, and the two halves of SR behind the
return are both the old backup half. -/
theorem returnFromInterrupt : Obligations.ReturnFromInterrupt := by
  intro n
  refine ⟨.of_encode (fun _ => rfl) fun _ => rfl, .of_not_takesConstant rfl rfl, fun s hnone => ?_⟩
  exact (exec_rti_eq hnone).trans (congrArg _ (s.sysReturn_eq_with _))

end Sys2Proof.Machine

/-! Memory operations with no other bus master (45_memory_ops.md R230 to R236). -/

namespace Sys2Proof.Machine

variable {s t u : State} {rd rs : RegNo} {n : BitVec 4} {d : BitVec 3} {imm a : Word} {r : Refusal}

/-! ## Addresses modulo 2^W -/

theorem Xlen.fit_fit_add (x : Xlen) (a b : Word) : x.fit (x.fit a + b) = x.fit (a + b) := by
  apply BitVec.eq_of_toNat_eq
  simp only [Xlen.fit_toNat, BitVec.toNat_add]
  cases x <;> simp only [Xlen.bits] <;> omega

theorem State.fit_ea (s : State) (rs : RegNo) (imm : Word) :
    s.fit (s.ea rs imm) = s.ea rs imm := s.fit_fit _

theorem State.offset_zero (s : State) (a : Word) : s.offset a 0 = s.fit a :=
  congrArg s.fit (BitVec.add_zero a)

theorem State.offset_offset (s : State) (a : Word) (j k : Nat) :
    s.offset (s.offset a j) k = s.offset a (j + k) := by
  refine (Xlen.fit_fit_add _ _ _).trans (congrArg s.fit ?_)
  rw [BitVec.add_assoc, ← BitVec.ofNat_add]

/-- Within 2^16 bytes, which either version has, addresses do not wrap onto each other. -/
theorem State.offset_injective (s : State) (a : Word) {j k : Nat} (hj : j < 2 ^ 16)
    (hk : k < 2 ^ 16) (h : s.offset a j = s.offset a k) : j = k := by
  have hmod := congrArg BitVec.toNat h
  simp only [State.offset, State.fit, Xlen.fit_toNat, BitVec.toNat_add, BitVec.toNat_ofNat] at hmod
  rcases Xlen.bits_cases s.cfg.xlen with hbits | hbits <;> rw [hbits] at hmod <;> omega

/-! ## Characters and words, from their bytes (20_memory.md R63) -/

theorem State.readChar_eq_charAt (s : State) (a : Word) : s.readChar a = s.charAt a := by
  unfold State.readChar charOfBytes State.charAt
  cases s.cfg.byteOrder <;> rfl

/-- Two characters of two bytes are four bytes. -/
theorem append_chars (b3 b2 b1 b0 : Byte) :
    ((b3 ++ b2 : Char16) ++ (b1 ++ b0 : Char16) : Word) = b3 ++ b2 ++ b1 ++ b0 :=
  (BitVec.append_assoc (x₁ := b3 ++ b2) (x₂ := b1) (x₃ := b0)).symm

theorem State.readWord_eq_wordAt (s : State) (a : Word) : s.readWord a = s.wordAt a := by
  have hlast : s.offset (s.offset a 2) 1 = s.offset a 3 := s.offset_offset a 2 1
  unfold State.readWord wordOfChars State.readChar charOfBytes State.wordAt
  rw [hlast]
  cases s.cfg.byteOrder <;> exact append_chars ..

theorem bytesOfHalf_eq_bytesOfChar (order : ByteOrder) (c : Char16) :
    bytesOfHalf order c = [(bytesOfChar order c).1, (bytesOfChar order c).2] := by
  cases order <;> rfl

/-- The bits taken from a slice are bits of the whole. -/
theorem extractLsb'_of_extractLsb' {w m : Nat} (v : BitVec w) (i : Nat) {j k : Nat}
    (h : j + k ≤ m) : (v.extractLsb' i m).extractLsb' j k = v.extractLsb' (i + j) k := by
  apply BitVec.eq_of_getLsbD_eq
  intro l hl
  have hin : j + l < m := by omega
  simp [BitVec.getLsbD_extractLsb', hin, Nat.add_assoc]

/-- The bytes of a word are those of its two characters (20_memory.md R63, D29). -/
theorem bytesOfWord_eq_append (order : ByteOrder) (w : Word) :
    bytesOfWord order w =
      bytesOfHalf order (charsOfWord order w).1 ++ bytesOfHalf order (charsOfWord order w).2 := by
  cases order <;>
    simp [bytesOfWord, bytesOfHalf, charsOfWord, extractLsb'_of_extractLsb']

theorem bytesOfHalf_length (order : ByteOrder) (c : Char16) :
    (bytesOfHalf order c).length = 2 := by
  cases order <;> rfl

/-! ## Bytes stored one after another -/

/-- Two stores at adjacent addresses store the bytes of both. -/
theorem BytesStored.append {xs ys : List Byte} (hx : BytesStored s u a xs)
    (hy : BytesStored u t (s.offset a xs.length) ys) (hcfg : u.cfg = s.cfg)
    (hlen : xs.length + ys.length ≤ 2 ^ 16) : BytesStored s t a (xs ++ ys) := by
  have haddr (k : Nat) : u.offset (s.offset a xs.length) k = s.offset a (xs.length + k) := by
    rw [← s.offset_offset, State.offset, State.fit, hcfg]
    rfl
  obtain ⟨hxin, hxout⟩ := hx
  obtain ⟨hyin, hyout⟩ := hy
  constructor
  · intro k hk
    rw [List.length_append] at hk
    by_cases hfirst : k < xs.length
    · rw [List.getElem_append_left hfirst, ← hxin k hfirst]
      refine hyout _ fun j hj hsame => ?_
      have := s.offset_injective a (by omega) (by omega) (hsame.trans (haddr j))
      omega
    · obtain ⟨j, rfl⟩ := Nat.exists_eq_add_of_le (not_lt.mp hfirst)
      have hj : j < ys.length := by omega
      have hbyte := hyin j hj
      rw [show u.fit _ = _ from haddr j] at hbyte
      simpa [State.offset] using hbyte
  · intro p hp
    rw [List.length_append] at hp
    refine (hyout p fun j hj => ?_).trans (hxout p fun k hk => hp k (by omega))
    rw [show u.fit _ = _ from haddr j]
    exact hp _ (by omega)

theorem State.writeByte_bytesStored (hwf : Memory.wf s.mem = true) (ha : s.fit a = a) (b : Byte) :
    BytesStored s (s.writeByte a b) a [b] := by
  have hzero : s.offset a 0 = a := (s.offset_zero a).trans ha
  constructor
  · intro k hk
    obtain rfl : k = 0 := Nat.lt_one_iff.mp hk
    rw [State.readByte_writeByte hwf]
    exact if_pos hzero
  · intro p hp
    rw [State.readByte_writeByte hwf]
    exact if_neg fun h => hp 0 Nat.one_pos (h.trans hzero.symm)

theorem State.writeChar_bytesStored (hwf : Memory.wf s.mem = true) (ha : s.fit a = a)
    (c : Char16) : BytesStored s (s.writeChar a c) a (bytesOfHalf s.cfg.byteOrder c) := by
  rw [bytesOfHalf_eq_bytesOfChar]
  exact (State.writeByte_bytesStored hwf ha _).append
    (State.writeByte_bytesStored (State.writeByte_wf hwf _ _) (s.fit_fit _) _) rfl (by simp)

/-! ## Transfers with no other bus master -/

section NoOtherMaster

variable (hext : s.cfg.externalWriters = false)

include hext

theorem State.loadWord_eq_wordAt (a : Word) : s.loadWord a = (s.wordAt a, s) := by
  rw [← s.readWord_eq_wordAt, State.loadWord, State.turn_eq hext, State.turn_eq hext]
  rfl

theorem State.storeByte_eq_writeByte (a : Word) (b : Byte) :
    s.storeByte a b = s.writeByte a b := by
  rw [State.storeByte, State.turn_eq hext]

theorem State.storeChar_eq_writeChar (a : Word) (c : Char16) :
    s.storeChar a c = s.writeChar a c := by
  rw [State.storeChar, State.turn_eq hext]

theorem State.storeWord_eq_writeChar (a w : Word) :
    s.storeWord a w = (s.writeChar a (charsOfWord s.cfg.byteOrder w).1).writeChar (s.offset a 2)
      (charsOfWord s.cfg.byteOrder w).2 := by
  have hbetween : (s.writeChar a (charsOfWord s.cfg.byteOrder w).1).turn = _ := State.turn_eq hext
  rw [State.storeWord, State.turn_eq hext, hbetween]

theorem State.storeWord_bytesStored (hwf : Memory.wf s.mem = true) (ha : s.fit a = a) (w : Word) :
    BytesStored s (s.storeWord a w) a (bytesOfWord s.cfg.byteOrder w) := by
  rw [State.storeWord_eq_writeChar hext, bytesOfWord_eq_append]
  refine (State.writeChar_bytesStored hwf ha _).append ?_ rfl ?_
  · rw [bytesOfHalf_length]
    exact State.writeChar_bytesStored (State.writeChar_wf hwf _ _) (s.fit_fit _) _
  · simp [bytesOfHalf_length]

end NoOtherMaster

/-! ## Which accesses are let through (20_memory.md R62, R65) -/

theorem State.Populated.loadRefusal_none {k : Nat} (hpop : s.Populated a k)
    (heven : k = 1 ∨ isOdd a = false) : s.loadRefusal a k = none :=
  State.loadRefusal_none.mpr ⟨heven, hpop⟩

theorem State.Populated.storeRefusal_none {k : Nat} (hpop : s.Populated a k) (hram : s.Ram a k)
    (heven : k = 1 ∨ isOdd a = false) : s.storeRefusal a k = none :=
  State.storeRefusal_none.mpr ⟨heven, hpop, hram⟩

theorem State.loadRefusal_of_isOdd {k : Nat} (hk : k ≠ 1) (hodd : isOdd a = true) :
    s.loadRefusal a k = some (.misalignedLoad a) := if_pos ⟨hk, hodd⟩

theorem State.storeRefusal_of_isOdd {k : Nat} (hk : k ≠ 1) (hodd : isOdd a = true) :
    s.storeRefusal a k = some (.misalignedStore a) := if_pos ⟨hk, hodd⟩

section Refused

variable (himm : s.constant (rawD3 d) = some imm)

include himm

theorem exec_lc_refused (hr : s.loadRefusal (s.ea rs imm) 2 = some r) :
    exec (.lc rd rs d) s = .refused r := by
  have hgate : s.clearCpfx.loadRefusal (s.clearCpfx.ea rs imm) 2 = some r := hr
  change execLc rd rs d s = _
  unfold execLc
  exact State.withConstant_eq himm (by simp only [hgate])

theorem exec_sc_refused (hr : s.storeRefusal (s.ea rs imm) 2 = some r) :
    exec (.sc rd rs d) s = .refused r := by
  have hgate : s.clearCpfx.storeRefusal (s.clearCpfx.ea rs imm) 2 = some r := hr
  change execSc rd rs d s = _
  unfold execSc
  exact State.withConstant_eq himm (by simp only [hgate])

theorem exec_lw_refused (hx : s.cfg.xlen = .w32) (hr : s.loadRefusal (s.ea rs imm) 4 = some r) :
    exec (.lw rd rs d) s = .refused r := by
  have hxlen : s.clearCpfx.cfg.xlen = .w32 := hx
  have hgate : s.clearCpfx.loadRefusal (s.clearCpfx.ea rs imm) 4 = some r := hr
  change execLw rd rs d s = _
  unfold execLw
  exact State.withConstant_eq himm (by simp only [hxlen, hgate])

theorem exec_sw_refused (hx : s.cfg.xlen = .w32) (hr : s.storeRefusal (s.ea rs imm) 4 = some r) :
    exec (.sw rd rs d) s = .refused r := by
  have hxlen : s.clearCpfx.cfg.xlen = .w32 := hx
  have hgate : s.clearCpfx.storeRefusal (s.clearCpfx.ea rs imm) 4 = some r := hr
  change execSw rd rs d s = _
  unfold execSw
  exact State.withConstant_eq himm (by simp only [hxlen, hgate])

theorem exec_lw_w16 (hx : s.cfg.xlen = .w16) : exec (.lw rd rs d) s = .refused .only32Bit := by
  have hxlen : s.clearCpfx.cfg.xlen = .w16 := hx
  change execLw rd rs d s = _
  unfold execLw
  exact State.withConstant_eq himm (by rw [hxlen])

theorem exec_sw_w16 (hx : s.cfg.xlen = .w16) : exec (.sw rd rs d) s = .refused .only32Bit := by
  have hxlen : s.clearCpfx.cfg.xlen = .w16 := hx
  change execSw rd rs d s = _
  unfold execSw
  exact State.withConstant_eq himm (by rw [hxlen])

end Refused

/-! ## What a load leaves -/

section Loaded

variable (hext : s.cfg.externalWriters = false)

include hext

theorem exec_lb_written (himm : s.constant n = some imm) (hpop : s.Populated (s.ea rs imm) 1) :
    ∃ t, exec (.lb rd rs n) s = .next t ∧ NZWritten s t rd
      (BitVec.ofInt 32 ((s.readByte (s.ea rs imm)).toInt % 2 ^ s.cfg.xlen.bits)) := by
  have hturn : s.clearCpfx.turn = s.clearCpfx := State.turn_eq hext
  refine ⟨_, exec_lb_eq himm (hpop.loadRefusal_none (.inl rfl)), ?_⟩
  rw [hturn, ← sextTo_eq_ofInt]
  exact State.writeNZ_written _ _ _ (s.fit_fit _)

theorem exec_lc_written (himm : s.constant (rawD3 d) = some imm)
    (heven : isOdd (s.ea rs imm) = false) (hpop : s.Populated (s.ea rs imm) 2) :
    ∃ t, exec (.lc rd rs d) s = .next t ∧ NZWritten s t rd
      (BitVec.ofInt 32 ((s.charAt (s.ea rs imm)).toInt % 2 ^ s.cfg.xlen.bits)) := by
  have hturn : s.clearCpfx.turn = s.clearCpfx := State.turn_eq hext
  refine ⟨_, exec_lc_eq himm (hpop.loadRefusal_none (.inr heven)), ?_⟩
  rw [hturn, ← sextTo_eq_ofInt, ← State.readChar_eq_charAt]
  exact State.writeNZ_written _ _ _ (s.fit_fit _)

theorem exec_lw_written (himm : s.constant (rawD3 d) = some imm) (hx : s.cfg.xlen = .w32)
    (heven : isOdd (s.ea rs imm) = false) (hpop : s.Populated (s.ea rs imm) 4) :
    ∃ t, exec (.lw rd rs d) s = .next t ∧ NZWritten s t rd (s.wordAt (s.ea rs imm)) := by
  refine ⟨_, exec_lw_eq himm hx (hpop.loadRefusal_none (.inr heven)), ?_⟩
  rw [State.loadWord_eq_wordAt (s := s.clearCpfx) hext]
  exact State.writeNZ_written _ _ _ (by rw [State.fit, hx, Xlen.fit_w32])

end Loaded

/-! ## What a store leaves -/

/-- The note says that the store reached its window (20_memory.md R80). -/
theorem State.hitsWindow_iff (s : State) (a : Word) (k : Nat) :
    s.hitsWindow a k = true ↔ s.InWindow a k := by
  simp only [State.hitsWindow, State.span, List.any_map, List.any_eq_true, List.mem_range,
    Function.comp_apply, decide_eq_true_eq]
  exact Iff.rfl

/-- A new memory and the note are all that a store leaves, with a pending CP used up. -/
theorem StoreOnly.of_mem (s : State) (m : Memory) (a : Word) (k : Nat) :
    StoreOnly s (State.noteStale { s.clearCpfx with mem := m } (s.hitsWindow a k)) a k where
  regs _ := rfl
  pc := rfl
  sr := rfl
  cpfx := rfl
  stale := s.hitsWindow_iff a k
  system := by constructor <;> rfl

section Stored

variable (hext : s.cfg.externalWriters = false) (hwf : Memory.wf s.mem = true)

include hext hwf

theorem exec_sb_stored (himm : s.constant n = some imm) (hpop : s.Populated (s.ea rs imm) 1)
    (hram : s.Ram (s.ea rs imm) 1) :
    ∃ t, exec (.sb rd rs n) s = .next t ∧ StoreOnly s t (s.ea rs imm) 1 ∧
      BytesStored s t (s.ea rs imm) [(s.readReg rd).extractLsb' 0 8] := by
  refine ⟨_, exec_sb_eq himm (hpop.storeRefusal_none hram (.inl rfl)), ?_⟩
  rw [State.storeByte_eq_writeByte (s := s.clearCpfx) hext]
  exact ⟨.of_mem .., State.writeByte_bytesStored (s := s.clearCpfx) hwf (s.fit_ea rs imm) _⟩

theorem exec_sc_stored (himm : s.constant (rawD3 d) = some imm)
    (heven : isOdd (s.ea rs imm) = false) (hpop : s.Populated (s.ea rs imm) 2)
    (hram : s.Ram (s.ea rs imm) 2) :
    ∃ t, exec (.sc rd rs d) s = .next t ∧ StoreOnly s t (s.ea rs imm) 2 ∧
      BytesStored s t (s.ea rs imm)
        (bytesOfHalf s.cfg.byteOrder ((s.readReg rd).extractLsb' 0 16)) := by
  refine ⟨_, exec_sc_eq himm (hpop.storeRefusal_none hram (.inr heven)), ?_⟩
  rw [State.storeChar_eq_writeChar (s := s.clearCpfx) hext]
  exact ⟨.of_mem .., State.writeChar_bytesStored (s := s.clearCpfx) hwf (s.fit_ea rs imm) _⟩

theorem exec_sw_stored (himm : s.constant (rawD3 d) = some imm) (hx : s.cfg.xlen = .w32)
    (heven : isOdd (s.ea rs imm) = false) (hpop : s.Populated (s.ea rs imm) 4)
    (hram : s.Ram (s.ea rs imm) 4) :
    ∃ t, exec (.sw rd rs d) s = .next t ∧ StoreOnly s t (s.ea rs imm) 4 ∧
      BytesStored s t (s.ea rs imm) (bytesOfWord s.cfg.byteOrder (s.readReg rd)) := by
  refine ⟨_, exec_sw_eq himm hx (hpop.storeRefusal_none hram (.inr heven)), ?_,
    State.storeWord_bytesStored (s := s.clearCpfx) hext hwf (s.fit_ea rs imm) _⟩
  rw [State.storeWord_eq_writeChar (s := s.clearCpfx) hext]
  exact .of_mem ..

end Stored

/-! ## The instructions one by one -/

/-- Settles O48: a load is let through or refused by its address and width, and what it reads is a
value of W bits. -/
theorem loads : Obligations.Loads := by
  intro s rd rs n d
  refine ⟨.of_encode (fun _ => rfl) fun _ => rfl, .of_encode (fun _ => rfl) fun _ => rfl,
    .of_encode (fun _ => rfl) fun _ => rfl, fun hext => ⟨fun imm => exec_lb_written hext,
      fun imm himm => ⟨fun hodd => ⟨?lcOdd, fun hx => ?lwOdd⟩, exec_lw_w16 himm,
        exec_lc_written hext himm, exec_lw_written hext himm⟩⟩⟩
  case lcOdd => exact exec_lc_refused himm (State.loadRefusal_of_isOdd (by decide) hodd)
  case lwOdd => exact exec_lw_refused himm hx (State.loadRefusal_of_isOdd (by decide) hodd)

/-- Settles O49: SB is one byte write, behind which the note says whether it reached the window. -/
theorem storeByte : Obligations.StoreByte := by
  intro s rd rs n
  exact ⟨.of_encode (fun _ => rfl) fun _ => rfl,
    fun imm himm hext hwf hpop hram => exec_sb_stored hext hwf himm hpop hram⟩

/-- Settles O50: SC is two byte writes at adjacent addresses, SW two such characters. -/
theorem storeCharacterAndWord : Obligations.StoreCharacterAndWord := by
  intro s rd rs d
  refine ⟨.of_encode (fun _ => rfl) fun _ => rfl, .of_encode (fun _ => rfl) fun _ => rfl,
    fun imm himm hext hwf => ⟨fun hodd => ⟨?scOdd, fun hx => ?swOdd⟩, exec_sw_w16 himm,
      exec_sc_stored hext hwf himm, exec_sw_stored hext hwf himm⟩⟩
  case scOdd => exact exec_sc_refused himm (State.storeRefusal_of_isOdd (by decide) hodd)
  case swOdd => exact exec_sw_refused himm hx (State.storeRefusal_of_isOdd (by decide) hodd)

end Sys2Proof.Machine

/-! Constant prefix, STOP, NOP, END, the special register transfers and the stopped core (46_misc.md
R250 to R257). -/

namespace Sys2Proof.Machine

variable {s : State} {rd : RegNo} {r : Word}

/-! ## A stopped core (R253) -/

theorem step_of_stopped (hrst : s.inputsNow.rst = false) (hstopped : s.stopped = true) :
    step s = .next (s.sample.stoppedStep s.inputsNow.go) := by
  rcases s.sample.taskOf_cases s.inputsNow with
    ⟨hhigh, -⟩ | ⟨-, -, hwake⟩ | ⟨-, hrunning, -⟩ | ⟨-, hrunning, -⟩
  · exact absurd (hrst.symm.trans hhigh) nofun
  · exact step_next.mpr (.inl hwake)
  · exact absurd (hrunning.symm.trans hstopped) nofun
  · exact absurd (hrunning.symm.trans hstopped) nofun

/-- A pending NMI wakes the core and is taken, whatever `go` is. -/
theorem State.stoppedStep_of_nmi (hpending : s.nmiPending = true) (go : Bool) :
    s.stoppedStep go = { s.entered 14 s.pc with
      stopped := false, nmiPending := decide (s.cfg.nmiTrigger = .level) } := by
  have htaken : s.stoppedStep go = { s with stopped := false }.takeNmi := if_pos hpending
  rw [htaken, State.takeNmi_eq_entered (s := { s with stopped := false }) hpending]
  rfl

/-- With no NMI pending the core wakes exactly by `go`, and nothing else changes. -/
theorem State.stoppedStep_of_no_nmi (hquiet : s.nmiPending = false) (go : Bool) :
    s.stoppedStep go = if go then { s with stopped := false } else s :=
  if_neg (Bool.not_eq_true _ ▸ hquiet)

/-- Settles O13: the step is that of the stopped core on the sampled inputs, by its three cases. -/
theorem stoppedCoreStep : Obligations.StoppedCoreStep := by
  intro s hrst hstopped
  rw [step_of_stopped hrst hstopped]
  refine ⟨fun hpending => ?nmi, fun hquiet hgo => ?go, fun hquiet hgo => ?sleep⟩
  case nmi => exact congrArg _ (State.stoppedStep_of_nmi hpending _)
  case go => rw [State.stoppedStep_of_no_nmi hquiet, if_pos hgo]
  case sleep => rw [State.stoppedStep_of_no_nmi hquiet, hgo, if_neg Bool.false_ne_true]

/-! ## A stopped core with no wake to come -/

theorem State.inputsNow_of_env_nil (henv : s.env = []) :
    s.inputsNow = ⟨false, s.nmiLine, s.irq, false⟩ := by
  rw [State.inputsNow, henv]

/-- With the levels as they were last sampled an NMI becomes pending by a level trigger alone. -/
theorem State.nmiPendingAfter_nmiLine (hquiet : s.nmiPending = false)
    (hlevel : s.cfg.nmiTrigger = .level → s.nmiLine = false) :
    s.nmiPendingAfter s.nmiLine = false := by
  cases htrigger : s.cfg.nmiTrigger with
  | edge =>
    rw [← Bool.not_eq_true, State.nmiPendingAfter_edge htrigger, hquiet]
    rintro (hset | ⟨hhigh, hlow⟩)
    · exact Bool.false_ne_true hset
    · exact Bool.false_ne_true (hlow.symm.trans hhigh)
  | level => rw [State.nmiPendingAfter_level htrigger, hlevel htrigger]

/-- Sampling inputs that stay as they are changes nothing. -/
theorem State.sample_of_env_nil (henv : s.env = [])
    (hpending : s.nmiPendingAfter s.nmiLine = s.nmiPending) : s.sample = s := by
  rw [State.sample, State.inputsNow_of_env_nil henv, hpending, henv, List.tail_nil, ← henv]

/-- A state that a step gives back is given back by any number of them. -/
theorem run_of_step_self {M : Host.Core} {u : M.State} (h : M.step u = .next u) (k : Nat) :
    M.run k u = .next u := by
  induction k with
  | zero => rfl
  | succ k ih =>
    rw [Host.Core.run, h]
    exact ih

/-- Settles O14: sampling changes nothing, so a step of the stopped core gives the same state
back, and with it any number of steps. -/
theorem stoppedForeverWithoutWake : Obligations.StoppedForeverWithoutWake := by
  intro s k hstopped henv hquiet hlevel
  have hinputs : s.inputsNow = ⟨false, s.nmiLine, s.irq, false⟩ := State.inputsNow_of_env_nil henv
  have hsample : s.sample = s :=
    State.sample_of_env_nil henv ((State.nmiPendingAfter_nmiLine hquiet hlevel).trans hquiet.symm)
  obtain ⟨-, -, hsleep⟩ := stoppedCoreStep s (by rw [hinputs]) hstopped
  have hstep : step s = .next s.sample := hsleep (by rw [hsample, hquiet]) (by rw [hinputs])
  exact run_of_step_self (M := Sys2Proof.core) (hstep.trans (congrArg _ hsample)) k

/-! ## CP, NOP, END and STOP (R250, R253 to R255) -/

/-- Settles O27: with no CP pending each size leaves its own prefix, size 1 in the thirty-two bit
version alone; behind a CP the gate refuses both. -/
theorem prefixInstruction : Obligations.PrefixInstruction := by
  intro s c
  exact ⟨.of_encode (fun _ => rfl) fun _ => rfl, .of_encode (fun _ => rfl) fun _ => rfl,
    exec_cp0_eq, exec_cp1_eq, fun hnone hx => exec_cp1_w16 hnone hx c,
    fun u hready => ⟨exec_prefix_ready hready rfl, exec_prefix_ready hready rfl⟩⟩

/-- Settles O55: neither has an effect behind the gate. -/
theorem noOperations : Obligations.NoOperations :=
  ⟨.of_encode (fun _ => rfl) fun _ => rfl, .of_not_takesConstant rfl rfl,
    .of_encode (fun _ => rfl) fun _ => rfl, .of_not_takesConstant rfl rfl,
    fun _ hnone => ⟨exec_nop_eq hnone, exec_endMark_eq hnone⟩⟩

/-- Settles O56: behind the gate the stopped flag alone is written. -/
theorem stopInstruction : Obligations.StopInstruction :=
  ⟨.of_encode (fun _ => rfl) fun _ => rfl, .of_not_takesConstant rfl rfl, fun _ => exec_stop_eq⟩

/-! ## TSR (R256) -/

/-- SR is no wider than a register, in both versions. -/
theorem zextTo_sr (s : State) : zextTo s.cfg.xlen s.sr = s.sr.setWidth 32 := by
  rw [zextTo_eq_ofNat (Xlen.sixteen_le_bits _), BitVec.ofNat_toNat]

theorem State.fit_sr (s : State) : s.fit (s.sr.setWidth 32) = s.sr.setWidth 32 := by
  rw [← zextTo_sr]
  exact s.fit_fit _

theorem State.writeReg_movedTo (hnone : s.cpfx = .none) (hr : s.fit r = r) :
    MovedTo s (s.writeReg rd r) rd r where
  regs q := by rw [State.readReg_writeReg, hr]
  sr := rfl
  rest := ⟨rfl, hnone, rfl, fun _ => rfl, by constructor <;> rfl⟩

/-- TSR of a special register whose value fits in W bits. -/
theorem exec_tsr_movedTo {spr : Spr} (hnone : s.cpfx = .none) (hread : s.readSpr spr = .ok r)
    (hr : s.fit r = r) : ∃ t, exec (.tsr rd spr) s = .next t ∧ MovedTo s t rd r :=
  ⟨_, exec_tsr_eq hnone hread, State.writeReg_movedTo hnone hr⟩

/-- VER has no value in the sixteen-bit version (D23). -/
theorem exec_tsr_ver_w16 (hnone : s.cpfx = .none) (hx : s.cfg.xlen = .w16) (rd : RegNo) :
    exec (.tsr rd .ver) s = .refused .only32Bit := by
  have hread : s.readSpr .ver = .error .only32Bit := by rw [State.readSpr, hx]
  exact (State.withoutPrefix_of hnone _).trans (by rw [hread])

/-! ## TRS (R257) -/

/-- A write of the low four bits is an append. -/
theorem blend_low_nibble (sr v : BitVec 16) :
    blend sr 0x000F#16 v = sr.extractLsb' 4 12 ++ v.extractLsb' 0 4 := by
  apply BitVec.eq_of_getLsbD_eq
  intro k hk
  rw [blend_getLsbD _ _ _ _ hk, BitVec.getLsbD_append]
  interval_cases k <;> simp

theorem State.writeSpr_sr_full (hfull : s.cfg.trsSrFullWrite = true) (v : Word) :
    s.writeSpr .sr v = { s with sr := v.extractLsb' 0 16 &&& 0x8F8F#16 } :=
  if_pos hfull

/-- With TRS_SR_FULL_WRITE off N, V, C and Z alone are written (D9). -/
theorem State.writeSpr_sr_low (hlow : s.cfg.trsSrFullWrite = false) (v : Word) :
    s.writeSpr .sr v = { s with sr := s.sr.extractLsb' 4 12 ++ v.extractLsb' 0 4 } := by
  have hmask : s.writeSpr .sr v = s.maskSr 0x000F#16 (v.extractLsb' 0 16) :=
    if_neg (Bool.not_eq_true _ ▸ hlow)
  rw [hmask, State.maskSr, blend_low_nibble, BitVec.extractLsb'_extractLsb'_of_le (by decide)]

/-- Settles O57: what TSR moves fits in W bits, and TRS writes SR by either setting of
TRS_SR_FULL_WRITE. -/
theorem specialRegisterTransfers : Obligations.SpecialRegisterTransfers := by
  intro s rd
  refine ⟨.of_encode (fun _ => rfl) fun _ => rfl, .of_encode (fun _ => rfl) fun _ => rfl,
    .of_encode (fun _ => rfl) fun _ => rfl, .of_encode (fun _ => rfl) fun _ => rfl,
    .of_encode (fun _ => rfl) fun _ => rfl, .of_encode (fun _ => rfl) fun _ => rfl,
    fun spr => ⟨.of_not_takesConstant rfl rfl, .of_not_takesConstant rfl rfl⟩,
    fun hnone => ⟨?tsrSr, exec_tsr_movedTo hnone s.readSpr_ilr, fun hx => ?tsrVer,
      fun hx => exec_tsr_ver_w16 hnone hx rd, fun hfull => ?trsFull, fun hlow => ?trsLow,
      exec_trs_eq hnone, exec_trs_eq hnone⟩⟩
  case tsrSr =>
    exact exec_tsr_movedTo hnone (s.readSpr_sr.trans (congrArg _ (zextTo_sr s))) s.fit_sr
  case tsrVer =>
    have hfit : s.fit Config.verValue = Config.verValue := by rw [State.fit, hx, Xlen.fit_w32]
    exact exec_tsr_movedTo hnone (State.readSpr_ver hx) hfit
  case trsFull => exact (exec_trs_eq hnone).trans (congrArg _ (State.writeSpr_sr_full hfull _))
  case trsLow => exact (exec_trs_eq hnone).trans (congrArg _ (State.writeSpr_sr_low hlow _))

end Sys2Proof.Machine

/-! Hardware reset (70_reset_and_hazards.md R310, R311), the entry into a system call and the return
from one (60_exceptions.md R275, R277, R290). -/

namespace Sys2Proof.Machine

variable {s : State}

/-! ## Hardware reset (R310, R311) -/

/-- A high `rst` comes before everything else a step might do. -/
theorem step_of_rst (hrst : s.inputsNow.rst = true) : step s = .next s.sample.hardwareReset := by
  rcases s.sample.taskOf_cases s.inputsNow with ⟨-, hreset⟩ | ⟨hlow, -⟩ | ⟨hlow, -⟩ | ⟨hlow, -⟩
  · exact step_next.mpr (.inl hreset)
  all_goals exact absurd (hlow.symm.trans hrst) nofun

/-- Whatever free value SR gets, I is set in it. -/
theorem State.hardwareReset_flagI (s : State) : s.hardwareReset.flagI = true := by
  simp [State.flagI, State.hardwareReset]

/-- Settles O5: the reset of the sampled state, whose memory and parameters are the old ones. -/
theorem hardwareResetStep : Obligations.HardwareResetStep := fun s hrst =>
  ⟨s.sample.hardwareReset, step_of_rst hrst, rfl, s.sample.hardwareReset_flagI,
    s.sample.hardwareReset_reserved_zero, State.readReg_zero _, rfl, rfl, rfl, rfl, rfl, rfl⟩

/-! ## The entry into a system call (R275) -/

/-- The sixteen vectors end at the top of the address space: no address wraps around. -/
theorem State.vectorAddr_toNat (hx : s.cfg.xlen = .w32) (v : BitVec 4) :
    (s.vectorAddr v).toNat = 0xFFFFFF80 + 8 * v.toNat := by
  have hv := v.isLt
  rw [State.vectorAddr, State.fit, hx, Xlen.fit_w32, Config.vectorBase, BitVec.toNat_add,
    BitVec.toNat_ofNat, BitVec.toNat_ofNat]
  omega

/-- Settles O17: the two halves of SR by the laws of `srEnter`, the address without a wrap in the
thirty-two bit version. -/
theorem sysCallEntry : Obligations.SysCallEntry := fun s v ret =>
  ⟨s.sysCall_ilr v ret, srEnter_backup s.sr, srEnter_work s.sr, s.sysCall_pc v ret,
    fun hx => State.vectorAddr_toNat hx v, rfl⟩

/-! ## An entry and the return from it (R277, R290) -/

/-- RTI with displacement 0 behind an entry undoes it, but for ILR and the backup half of SR. -/
theorem exec_rti_of_sysCall (hnone : s.cpfx = .none) (hpc : s.fit s.pc = s.pc) (v : BitVec 4) :
    ∃ u, exec (.rti 0x0#4) (s.sysCall v s.pc) = .next u ∧ u.pc = s.pc ∧
      u.sr.extractLsb' 0 8 = s.sr.extractLsb' 0 8 ∧ u.regs = s.regs ∧ u.mem = s.mem := by
  have hback : s.fit (s.pc + BitVec.ofInt 32 (c4dec 0x0#4)) = s.pc := by simpa [c4dec] using hpc
  exact ⟨_, exec_rti_eq hnone, hback, (srReturn_work _).trans (srEnter_backup s.sr), rfl, rfl⟩

/-- A system-call instruction that is not masked enters a vector, with the address behind it as the
return address (R274). -/
theorem exec_of_isSystemCall {i : Instr} (hnone : s.cpfx = .none) (hcall : isSystemCall i = true)
    (hclear : i = .irq → s.flagI = false) : ∃ v, exec i s = .next (s.sysCall v s.pc) := by
  cases i with
  | brk => exact ⟨_, exec_brk_eq hnone⟩
  | sys => exact ⟨_, exec_sys_eq hnone⟩
  | trc => exact ⟨_, exec_trc_eq hnone⟩
  | dbg => exact ⟨_, exec_dbg_eq hnone⟩
  | nmi => exact ⟨_, exec_nmi_eq hnone⟩
  | reset => exact ⟨_, exec_reset_eq hnone⟩
  | irq => exact ⟨0xD#4, by rw [exec_irq_eq hnone, hclear rfl]; rfl⟩
  | _ => cases hcall

/-- Settles O24: either entry is `State.sysCall` with the pc as return address, of the state or of
the sampled state. -/
theorem handlerReturnResumes : Obligations.HandlerReturnResumes := by
  refine ⟨fun s i hnone hpc hcall hclear => ?_,
    fun s hpc hrst hrunning hnone hpending hirq hclear => ?_⟩
  · obtain ⟨v, hentry⟩ := exec_of_isSystemCall hnone hcall hclear
    exact ⟨_, (exec_rti_of_sysCall hnone hpc v).imp fun _ hreturn => ⟨hentry, hreturn⟩⟩
  · have hentry : step s = .next (s.sample.sysCall 0xD#4 s.sample.pc) :=
      step_takes_irq hrst hrunning hnone hpending hirq hclear
    exact ⟨_, (exec_rti_of_sysCall (s := s.sample) hnone hpc 0xD#4).imp
      fun _ hreturn => ⟨hentry, hreturn⟩⟩

end Sys2Proof.Machine

/-! Interrupts while a CP is pending (60_exceptions.md R282, R284). -/

namespace Sys2Proof.Machine

variable {s t : State}

/-! ## An instruction behind a CP -/

/-- An instruction without a constant completes only when no CP is pending (30_encoding.md R108). -/
theorem cpfx_of_exec_nonConstant {i : Instr} (h : exec i s = .next t)
    (hconst : takesConstant i = false) : s.cpfx = .none := by
  cases i with
  | addI | lea | subI | cmpI | adcI | subrI | sbcI | xorI | andI | orI | negR | notR | jal | jmp
  | callR | ret | sb | sc | sw | lb | lc | lw => cases hconst
  | cp0 | cp1 =>
    obtain ⟨hnone, -⟩ := withoutPriorPrefix_next.mp h
    exact hnone
  | _ =>
    obtain ⟨hnone, -⟩ := State.withoutPrefix_next.mp h
    exact hnone

theorem takesConstant_of_exec {i : Instr} (h : exec i s = .next t) (hpending : s.cpfx ≠ .none) :
    takesConstant i = true :=
  Bool.eq_true_of_not_eq_false fun hconst => hpending (cpfx_of_exec_nonConstant h hconst)

theorem isSystemCall_of_takesConstant {i : Instr} (h : takesConstant i = true) :
    isSystemCall i = false := by
  cases i with
  | brk | sys | trc | dbg | irq | nmi | reset => cases h
  | _ => rfl

/-- An instruction with a constant has a row of the flag table with N, V, C and Z at most
(10_state.md R41). -/
theorem srMaskOf_of_takesConstant {i : Instr} (h : takesConstant i = true) :
    ∀ k < 16, 4 ≤ k → (srMaskOf i).getLsbD k = false := by
  cases i with
  | addI | lea | subI | cmpI | adcI | subrI | sbcI | negR =>
    exact (by decide : ∀ k < 16, 4 ≤ k → (0x000F#16).getLsbD k = false)
  | xorI | andI | orI | notR | lb | lc | lw =>
    exact (by decide : ∀ k < 16, 4 ≤ k → (0x0009#16).getLsbD k = false)
  | jal | jmp | callR | ret | sb | sc | sw => exact fun _ _ _ => BitVec.getLsbD_zero
  | _ => cases h

/-! ## A step that enters no interrupt -/

/-- What an entry writes in ILR and SR, the requests for one, and the stopped flag are unchanged. -/
structure NotEntered (s t : State) : Prop where
  ilr : t.ilr = s.ilr
  backup : t.sr.extractLsb' 8 8 = s.sr.extractLsb' 8 8
  flagI : t.flagI = s.flagI
  nmiPending : t.nmiPending = s.nmiPending
  irq : t.irq = s.irq
  stopped : t.stopped = s.stopped

/-- An instruction that completes behind a CP takes a constant, and so is none that is named for ILR,
for the upper bits of SR or for the stopped flag. -/
theorem exec_notEntered {i : Instr} (h : exec i s = .next t) (hpending : s.cpfx ≠ .none) :
    NotEntered s t := by
  have hconst := takesConstant_of_exec h hpending
  have heffect := exec_effect h
  have hkept := heffect.othersKept
  have hupper : ∀ k < 16, 4 ≤ k → t.sr.getLsbD k = s.sr.getLsbD k := fun k hk hlow =>
    srKept_iff.mp heffect.srKept k hk (srMaskOf_of_takesConstant hconst k hk hlow)
  refine ⟨hkept.ilr (isSystemCall_of_takesConstant hconst) ?_,
    BitVec.eq_of_getLsbD_eq fun k hk => ?_, hupper 7 (by decide) (by decide), hkept.nmiPending,
    hkept.irq, hkept.stopped ?_⟩
  · rintro rd rfl
    cases hconst
  · simpa [BitVec.getLsbD_extractLsb', hk] using hupper (8 + k) (by omega) (by omega)
  · rintro rfl
    cases hconst

/-- A fetch that is the whole step has taken constant data (46_misc.md R251). -/
theorem State.fetchTask_done (h : s.fetchTask = .done t) :
    ∃ u, t = { s.fetched with cpfx := .ready u } := by
  unfold State.fetchTask at h
  split at h
  · cases h
  · split at h
    · exact ⟨_, (Task.done.inj h).symm⟩
    · split at h <;> cases h

/-- An instruction runs on the state behind its fetch. -/
theorem State.fetchTask_run {i : Instr} (h : s.fetchTask = .run i t) : t = s.fetched := by
  unfold State.fetchTask at h
  split at h
  · cases h
  · split at h
    · cases h
    · split at h <;> cases h
      rfl

/-- With a CP pending a running core only fetches: constant data, or an instruction behind the
CP. -/
theorem step_notEntered (hrst : s.inputsNow.rst = false) (hrunning : s.stopped = false)
    (hpending : s.cpfx ≠ .none) (h : step s = .next t) : NotEntered s.sample t := by
  have hquiet : s.Quiet := ⟨hrst, hrunning, fun hnone => absurd hnone hpending⟩
  rcases step_next.mp h with hdone | ⟨i, u, hrun, hexec⟩
  · obtain ⟨u, rfl⟩ := State.fetchTask_done (hquiet.task.symm.trans hdone)
    exact ⟨rfl, rfl, rfl, rfl, rfl, rfl⟩
  · obtain rfl := State.fetchTask_run (hquiet.task.symm.trans hrun)
    exact { exec_notEntered hexec hpending with }

/-! ## The boundary behind the CP (R284, D15) -/

/-- At a boundary with no CP pending a pending NMI is taken, whatever I is (60_exceptions.md R283,
R284). -/
theorem step_takes_nmi (hrst : s.inputsNow.rst = false) (hrunning : s.stopped = false)
    (hnone : s.cpfx = .none) (hpending : s.sample.nmiPending = true) :
    step s = .next s.sample.takeNmi :=
  step_of_interrupted hrst hrunning (State.interrupted_some.mpr ⟨hnone, .inl ⟨hpending, rfl⟩⟩)

/-- Settles O16: the step behind a CP enters no interrupt and leaves the core running, so the next
boundary with no CP pending takes what was held off. -/
theorem prefixHoldsOffInterrupts : Obligations.PrefixHoldsOffInterrupts := by
  intro s hpending hrunning
  refine ⟨step_of_rst, fun hrst t h => ?_⟩
  have hkept := step_notEntered hrst hrunning hpending h
  have hstill : t.stopped = false := hkept.stopped.trans hrunning
  refine ⟨hkept.ilr, hkept.backup, hkept.flagI, hkept.nmiPending, hkept.irq, hstill,
    fun hnone hlow => ⟨fun hnmi => ?_, fun hnoNmi hirq hclear => ?_⟩⟩
  · exact ⟨_, step_takes_nmi hlow hstill hnone hnmi, rfl, rfl⟩
  · exact ⟨_, step_takes_irq hlow hstill hnone hnoNmi hirq hclear, rfl, rfl⟩

end Sys2Proof.Machine

/-! Fetches, loads and stores that are refused (20_memory.md R62, R67, R80, D12, D17, D18). -/

namespace Sys2Proof.Machine

variable {s : State} {rd rs : RegNo} {n : BitVec 4} {imm a : Word} {r : Refusal} {k : Nat}

/-! ## Which accesses the platform does not allow (R62) -/

theorem State.span_all_populated_iff : (s.span a k).all s.populated = true ↔ s.Populated a k := by
  simp only [State.span, List.all_map, List.all_eq_true, List.mem_range]
  exact Iff.rfl

theorem State.span_all_writable_iff : (s.span a k).all s.writable = true ↔ s.Ram a k := by
  simp only [State.span, List.all_map, List.all_eq_true, List.mem_range]
  exact Iff.rfl

/-- A byte access is aligned at any address, a longer one at an even address (R64, R65). -/
theorem not_misaligned (heven : k = 1 ∨ isOdd a = false) : ¬ (k ≠ 1 ∧ isOdd a = true) := by
  rintro ⟨hk, hodd⟩
  rcases heven with hbyte | heven
  · exact hk hbyte
  · exact Bool.false_ne_true (heven.symm.trans hodd)

theorem State.loadRefusal_of_not_populated (heven : k = 1 ∨ isOdd a = false)
    (hpop : ¬ s.Populated a k) : s.loadRefusal a k = some (.unpopulated a) := by
  rw [State.loadRefusal, if_neg (not_misaligned heven),
    if_neg fun hall => hpop (State.span_all_populated_iff.mp hall)]

theorem State.storeRefusal_of_not_populated (heven : k = 1 ∨ isOdd a = false)
    (hpop : ¬ s.Populated a k) : s.storeRefusal a k = some (.unpopulated a) := by
  rw [State.storeRefusal, if_neg (not_misaligned heven),
    if_neg fun hall => hpop (State.span_all_populated_iff.mp hall)]

theorem State.storeRefusal_of_not_ram (heven : k = 1 ∨ isOdd a = false) (hpop : s.Populated a k)
    (hram : ¬ s.Ram a k) : s.storeRefusal a k = some (.romStore a) := by
  rw [State.storeRefusal, if_neg (not_misaligned heven),
    if_pos (State.span_all_populated_iff.mpr hpop),
    if_neg fun hall => hram (State.span_all_writable_iff.mp hall)]

/-! ## Loads and stores -/

theorem exec_lb_refused (himm : s.constant n = some imm)
    (hr : s.loadRefusal (s.ea rs imm) 1 = some r) : exec (.lb rd rs n) s = .refused r := by
  have hgate : s.clearCpfx.loadRefusal (s.clearCpfx.ea rs imm) 1 = some r := hr
  change execLb rd rs n s = _
  unfold execLb
  exact State.withConstant_eq himm (by simp only [hgate])

theorem exec_sb_refused (himm : s.constant n = some imm)
    (hr : s.storeRefusal (s.ea rs imm) 1 = some r) : exec (.sb rd rs n) s = .refused r := by
  have hgate : s.clearCpfx.storeRefusal (s.clearCpfx.ea rs imm) 1 = some r := hr
  change execSb rd rs n s = _
  unfold execSb
  exact State.withConstant_eq himm (by simp only [hgate])

/-- Settles O51: each access is refused as its address is, a byte at any address, a character or a
word at an even one. -/
theorem platformRefusals : Obligations.PlatformRefusals := by
  intro s rd rs n d
  refine ⟨fun imm himm => ⟨fun hpop => ⟨?lb, ?sb⟩, fun hpop hram => ?sbRom⟩,
    fun imm himm heven => ⟨fun hpop => ⟨?lc, ?sc⟩, fun hpop hram => ?scRom,
      fun hx hpop => ⟨?lw, ?sw⟩, fun hx hpop hram => ?swRom⟩⟩
  case lb => exact exec_lb_refused himm (State.loadRefusal_of_not_populated (.inl rfl) hpop)
  case sb => exact exec_sb_refused himm (State.storeRefusal_of_not_populated (.inl rfl) hpop)
  case sbRom => exact exec_sb_refused himm (State.storeRefusal_of_not_ram (.inl rfl) hpop hram)
  case lc => exact exec_lc_refused himm (State.loadRefusal_of_not_populated (.inr heven) hpop)
  case sc => exact exec_sc_refused himm (State.storeRefusal_of_not_populated (.inr heven) hpop)
  case scRom => exact exec_sc_refused himm (State.storeRefusal_of_not_ram (.inr heven) hpop hram)
  case lw => exact exec_lw_refused himm hx (State.loadRefusal_of_not_populated (.inr heven) hpop)
  case sw => exact exec_sw_refused himm hx (State.storeRefusal_of_not_populated (.inr heven) hpop)
  case swRom =>
    exact exec_sw_refused himm hx (State.storeRefusal_of_not_ram (.inr heven) hpop hram)

/-! ## Fetches -/

theorem State.fetchRefusal_of_isOdd (hodd : isOdd s.pc = true) :
    s.fetchRefusal = some (.oddPc s.pc) := if_pos hodd

theorem State.fetchRefusal_of_stale (heven : isOdd s.pc = false) (hstale : s.stale = true) :
    s.fetchRefusal = some (.staleFetch s.pc) := by
  rw [State.fetchRefusal, if_neg (Bool.eq_false_iff.mp heven), if_pos hstale]

theorem State.fetchRefusal_of_not_populated (heven : isOdd s.pc = false) (hfresh : s.stale = false)
    (hpop : ¬ s.Populated s.pc 2) : s.fetchRefusal = some (.unpopulated s.pc) := by
  rw [State.fetchRefusal, if_neg (Bool.eq_false_iff.mp heven),
    if_neg (Bool.eq_false_iff.mp hfresh),
    if_neg fun hall => hpop (State.span_all_populated_iff.mp hall)]

theorem State.fetchTask_of_fetchRefusal (hr : s.fetchRefusal = some r) : s.fetchTask = .stop r := by
  simp only [State.fetchTask, hr]

/-- A quiet core stops when its fetch is refused; the sample touches nothing the refusal hangs
on. -/
theorem step_refused_of_fetchRefusal (hquiet : s.Quiet) (hr : s.sample.fetchRefusal = some r) :
    step s = .refused r :=
  step_of_task_stop (hquiet.task.trans (State.fetchTask_of_fetchRefusal hr))

/-- Settles O12: the three refusals of a fetch, in their order, of the sampled state. -/
theorem fetchRefusals : Obligations.FetchRefusals := by
  intro s hquiet
  refine ⟨fun hodd => ?odd, fun heven hstale => ?stale, fun heven hfresh hpop => ?unpopulated⟩ <;>
    refine step_refused_of_fetchRefusal hquiet ?_
  case odd => exact State.fetchRefusal_of_isOdd (s := s.sample) hodd
  case stale => exact State.fetchRefusal_of_stale (s := s.sample) heven hstale
  case unpopulated =>
    exact State.fetchRefusal_of_not_populated (s := s.sample) heven hfresh hpop

end Sys2Proof.Machine

/-! A word stored and read back (20_memory.md R63, R70). -/

namespace Sys2Proof.Machine

variable {s t : State} {rd rs rq : RegNo} {d : BitVec 3} {imm a w : Word}

/-! ## Values modulo 2^W -/

theorem State.fit_of_w32 (hx : s.cfg.xlen = .w32) (v : Word) : s.fit v = v := by
  rw [State.fit, hx, Xlen.fit_w32]

theorem State.fit_of_cfg_eq (hcfg : t.cfg = s.cfg) (v : Word) : t.fit v = s.fit v := by
  rw [State.fit, hcfg, State.fit]

/-! ## A word and its four bytes -/

theorem bytesOfWord_length (order : ByteOrder) (w : Word) : (bytesOfWord order w).length = 4 := by
  cases order <;> rfl

/-- The four bytes of a word, put together again. -/
theorem append_bytes (w : Word) :
    w.extractLsb' 24 8 ++ w.extractLsb' 16 8 ++ w.extractLsb' 8 8 ++ w.extractLsb' 0 8 = w := by
  have hhigh : w.extractLsb' 24 8 ++ w.extractLsb' 16 8 = w.extractLsb' 16 16 :=
    BitVec.extractLsb'_append_extractLsb'_eq_extractLsb' rfl
  have hupper : w.extractLsb' 16 16 ++ w.extractLsb' 8 8 = w.extractLsb' 8 24 :=
    BitVec.extractLsb'_append_extractLsb'_eq_extractLsb' rfl
  have hwhole : w.extractLsb' 8 24 ++ w.extractLsb' 0 8 = w.extractLsb' 0 32 :=
    BitVec.extractLsb'_append_extractLsb'_eq_extractLsb' rfl
  rw [hhigh, hupper, hwhole]
  exact BitVec.extractLsb'_eq_self

/-- Where the bytes of a word are stored, the word is. -/
theorem BytesStored.wordAt_eq (hcfg : t.cfg = s.cfg) (ha : s.fit a = a)
    (h : BytesStored s t a (bytesOfWord s.cfg.byteOrder w)) : t.wordAt a = w := by
  obtain ⟨hbytes, -⟩ := h
  have hfit := State.fit_of_cfg_eq hcfg
  have hfirst : s.fit (a + BitVec.ofNat 32 0) = a := (s.offset_zero a).trans ha
  unfold State.wordAt
  rw [hcfg, hfit, hfit, hfit]
  generalize s.cfg.byteOrder = order at hbytes ⊢
  have hlen := bytesOfWord_length order w
  have h0 := hbytes 0 (by omega)
  have h1 : t.readByte (s.fit (a + 1)) = _ := hbytes 1 (by omega)
  have h2 : t.readByte (s.fit (a + 2)) = _ := hbytes 2 (by omega)
  have h3 : t.readByte (s.fit (a + 3)) = _ := hbytes 3 (by omega)
  rw [hfirst] at h0
  rw [h0, h1, h2, h3]
  cases order <;> exact append_bytes w

/-! ## Loads behind a store -/

section BehindStore

variable (hcfg : t.cfg = s.cfg)

include hcfg

theorem State.constant_of_cfg_eq (hs : s.cpfx = .none) (ht : t.cpfx = .none) (raw : BitVec 4) :
    t.constant raw = s.constant raw := by
  rw [State.constant_of_none hs, State.constant_of_none ht, State.fit_of_cfg_eq hcfg]

theorem State.Populated.of_cfg_eq {k : Nat} (h : s.Populated a k) : t.Populated a k := by
  intro j hj
  have hbyte := h j hj
  rw [State.populated] at hbyte ⊢
  rwa [State.fit_of_cfg_eq hcfg, hcfg]

theorem State.ea_of_regsKept (hregs : RegsKept s t) : t.ea rs imm = s.ea rs imm := by
  rw [State.ea, hregs, State.fit_of_cfg_eq hcfg, State.ea]

end BehindStore

/-- A byte of a populated access is populated by itself. -/
theorem State.Populated.byte {k n : Nat} (h : s.Populated a n) (hk : k < n) :
    s.Populated (s.offset a k) 1 := by
  intro j hj
  obtain rfl : j = 0 := Nat.lt_one_iff.mp hj
  change s.populated (s.offset (s.offset a k) 0) = true
  rw [s.offset_offset]
  exact h k hk

/-- With no displacement, LB reads the byte that its register points to. -/
theorem exec_lb_at (hx : t.cfg.xlen = .w32) (hext : t.cfg.externalWriters = false)
    (hnone : t.cpfx = .none) (hrq : rq ≠ 0x0#4) {r : RegNo} (hr : t.readReg r = a)
    (hpop : t.Populated a 1) :
    ∃ v, exec (.lb rq r 0x0#4) t = .next v ∧ v.readReg rq = (t.readByte a).signExtend 32 := by
  have himm : t.constant 0x0#4 = some 0x00000000#32 := by
    rw [State.constant_of_none hnone]
    exact congrArg some t.fit_zero
  have hea : t.ea r 0x00000000#32 = a := by
    rw [State.ea, hr, State.fit_of_w32 hx, BitVec.add_zero]
  obtain ⟨v, hexec, hv⟩ := exec_lb_written (rd := rq) (rs := r) hext himm (by rwa [hea])
  refine ⟨v, hexec, (hv.regs.readReg_same hrq).trans ?_⟩
  rw [hea, ← sextTo_eq_ofInt, sextTo, hx, Xlen.fit_w32]

/-- Settles O52: LW reads the four bytes that SW stored, LB one of them. -/
theorem storeThenLoad : Obligations.StoreThenLoad := by
  intro s rd rs rq d hnone hx hext hwf hrq imm himm heven hpop hram
  obtain ⟨t, hstore, honly, hbytes⟩ := exec_sw_stored (rd := rd) hext hwf himm hx heven hpop hram
  have hcfg : t.cfg = s.cfg := honly.system.cfg
  have hxt : t.cfg.xlen = .w32 := hcfg ▸ hx
  have hextt : t.cfg.externalWriters = false := hcfg ▸ hext
  have hea : t.ea rs imm = s.ea rs imm := State.ea_of_regsKept hcfg honly.regs
  have himmt : t.constant (rawD3 d) = some imm :=
    (State.constant_of_cfg_eq hcfg hnone honly.cpfx _).trans himm
  obtain ⟨u, hload, hu⟩ := exec_lw_written (rd := rq) hextt himmt hxt (by rwa [hea])
    (by rw [hea]; exact hpop.of_cfg_eq hcfg)
  refine ⟨t, u, hstore, hload, ?word, fun r k hk hr => ?byte⟩
  case word =>
    rw [hu.regs.readReg_same hrq, hea]
    exact hbytes.wordAt_eq hcfg (s.fit_ea rs imm)
  case byte =>
    have hoffset : s.ea rs imm + BitVec.ofNat 32 k = s.offset (s.ea rs imm) k :=
      (State.fit_of_w32 hx _).symm
    obtain ⟨hstored, -⟩ := hbytes
    rw [← hstored k hk]
    have hin : k < 4 := hk.trans_eq (bytesOfWord_length _ _)
    exact exec_lb_at hxt hextt honly.cpfx hrq (hr.trans hoffset) ((hpop.byte hin).of_cfg_eq hcfg)

end Sys2Proof.Machine

/-! Memory operations beside another bus master (20_memory.md R69, R76, D17, D29). -/

namespace Sys2Proof.Machine

variable {s : State} {rd rs : RegNo} {n : BitVec 4} {d : BitVec 3} {imm : Word}

/-! ## The other master's turn -/

/-- A byte behind a burst is the last one that the burst writes to its address. -/
theorem Memory.read_writeBurst (x : Xlen) (p : Word) (ws : List (Word × Byte)) {m : Memory}
    (hwf : Memory.wf m = true) :
    Memory.read (Memory.writeBurst x m ws) p.toNat =
      ws.foldl (fun old w => if x.fit w.1 = p then w.2 else old) (Memory.read m p.toNat) := by
  induction ws generalizing m with
  | nil => rfl
  | cons w ws ih =>
    have hsame : p.toNat = (x.fit w.1).toNat ↔ x.fit w.1 = p := BitVec.toNat_inj.trans eq_comm
    rw [Memory.writeBurst, ih (Memory.wf_write hwf (x.fit w.1).isLt w.2), Memory.read_write hwf,
      List.foldl_cons]
    simp only [hsame]

section Turn

variable (hext : s.cfg.externalWriters = true)

include hext

theorem State.turn_bus_of_externalWriters : s.turn.bus = s.bus.tail := if_pos hext

theorem State.turn_mem_of_externalWriters :
    s.turn.mem = Memory.writeBurst s.cfg.xlen s.mem (s.bus.head?.getD []) := if_pos hext

theorem State.readByte_turn (hwf : Memory.wf s.mem = true) (p : Word) :
    s.turn.readByte p = (s.bus.head?.getD []).foldl
      (fun old w => if s.fit w.1 = p then w.2 else old) (s.readByte p) := by
  rw [State.readByte, State.turn_mem_of_externalWriters hext]
  exact Memory.read_writeBurst _ p _ hwf

end Turn

/-! ## Loads -/

theorem State.readReg_writeNZ_same (hrd : rd ≠ 0x0#4) (v : Word) :
    (s.writeNZ rd v).readReg rd = s.fit v :=
  (s.readReg_writeReg rd rd v).trans (if_pos ⟨rfl, hrd⟩)

section LoadedBehindTurns

variable (hrd : rd ≠ 0x0#4)

include hrd

theorem exec_lb_behind_turn (himm : s.constant n = some imm) (hpop : s.Populated (s.ea rs imm) 1) :
    ∃ t, exec (.lb rd rs n) s = .next t ∧ t.mem = s.turn.mem ∧ t.bus = s.turn.bus ∧
      t.readReg rd = s.fit ((s.turn.readByte (s.ea rs imm)).signExtend 32) :=
  ⟨_, exec_lb_eq himm (hpop.loadRefusal_none (.inl rfl)), rfl, rfl,
    (State.readReg_writeNZ_same hrd _).trans (s.fit_fit _)⟩

theorem exec_lc_behind_turn (himm : s.constant (rawD3 d) = some imm)
    (heven : isOdd (s.ea rs imm) = false) (hpop : s.Populated (s.ea rs imm) 2) :
    ∃ t, exec (.lc rd rs d) s = .next t ∧ t.mem = s.turn.mem ∧ t.bus = s.turn.bus ∧
      t.readReg rd = s.fit ((s.turn.charAt (s.ea rs imm)).signExtend 32) := by
  refine ⟨_, exec_lc_eq himm (hpop.loadRefusal_none (.inr heven)), rfl, rfl, ?_⟩
  rw [← State.readChar_eq_charAt]
  exact (State.readReg_writeNZ_same hrd _).trans (s.fit_fit _)

/-- The second character of a word is read behind a turn of its own (D29). -/
theorem exec_lw_behind_turns (himm : s.constant (rawD3 d) = some imm) (hx : s.cfg.xlen = .w32)
    (heven : isOdd (s.ea rs imm) = false) (hpop : s.Populated (s.ea rs imm) 4) :
    ∃ t, exec (.lw rd rs d) s = .next t ∧ t.mem = s.turn.turn.mem ∧ t.bus = s.turn.turn.bus ∧
      t.readReg rd = wordOfChars s.cfg.byteOrder (s.turn.charAt (s.ea rs imm))
        (s.turn.turn.charAt (s.ea rs imm + 2)) := by
  have hnext : s.offset (s.ea rs imm) 2 = s.ea rs imm + 2 := State.fit_of_w32 hx _
  refine ⟨_, exec_lw_eq himm hx (hpop.loadRefusal_none (.inr heven)), rfl, rfl, ?_⟩
  rw [← State.readChar_eq_charAt, ← State.readChar_eq_charAt, ← hnext]
  exact (State.readReg_writeNZ_same hrd _).trans (State.fit_of_w32 hx _)

end LoadedBehindTurns

/-- Settles O53: a turn by induction over its burst, each load by the turns in front of its
transfers. -/
theorem loadsBesideAnotherMaster : Obligations.LoadsBesideAnotherMaster := by
  refine ⟨fun s p hext hwf =>
      ⟨State.turn_bus_of_externalWriters hext, State.readByte_turn hext hwf p⟩,
    fun s rd rs n d imm hrd _ => ⟨exec_lb_behind_turn hrd, fun himm heven =>
      ⟨exec_lc_behind_turn hrd himm heven, fun hx hpop => ?lw⟩⟩⟩
  case lw =>
    obtain ⟨t, hexec, hmem, hbus, hword⟩ := exec_lw_behind_turns hrd himm hx heven hpop
    refine ⟨t, hexec, hmem, hbus, hword.trans ?_⟩
    cases s.cfg.byteOrder <;> rfl

/-! ## Stores -/

section StoredBehindTurns

variable (hwf : Memory.wf s.mem = true)

include hwf

theorem exec_sb_behind_turn (himm : s.constant n = some imm) (hpop : s.Populated (s.ea rs imm) 1)
    (hram : s.Ram (s.ea rs imm) 1) :
    ∃ t, exec (.sb rd rs n) s = .next t ∧
      BytesStored s.turn t (s.ea rs imm) [(s.readReg rd).extractLsb' 0 8] :=
  ⟨_, exec_sb_eq himm (hpop.storeRefusal_none hram (.inl rfl)),
    State.writeByte_bytesStored (s := s.turn) (State.turn_wf hwf) (s.fit_ea rs imm) _⟩

theorem exec_sc_behind_turn (himm : s.constant (rawD3 d) = some imm)
    (heven : isOdd (s.ea rs imm) = false) (hpop : s.Populated (s.ea rs imm) 2)
    (hram : s.Ram (s.ea rs imm) 2) :
    ∃ t, exec (.sc rd rs d) s = .next t ∧ BytesStored s.turn t (s.ea rs imm)
      (bytesOfHalf s.cfg.byteOrder ((s.readReg rd).extractLsb' 0 16)) :=
  ⟨_, exec_sc_eq himm (hpop.storeRefusal_none hram (.inr heven)),
    State.writeChar_bytesStored (s := s.turn) (State.turn_wf hwf) (s.fit_ea rs imm) _⟩

/-- Between the two characters of a word is the memory with the first one stored, on which the other
master has its turn (D29). -/
theorem exec_sw_behind_turns (himm : s.constant (rawD3 d) = some imm) (hx : s.cfg.xlen = .w32)
    (heven : isOdd (s.ea rs imm) = false) (hpop : s.Populated (s.ea rs imm) 4)
    (hram : s.Ram (s.ea rs imm) 4) :
    ∃ t mid, exec (.sw rd rs d) s = .next t ∧ mid.bus = s.turn.bus ∧ mid.cfg = s.cfg ∧
      Memory.wf mid.mem = true ∧
      BytesStored s.turn mid (s.ea rs imm)
        (bytesOfHalf s.cfg.byteOrder (charsOfWord s.cfg.byteOrder (s.readReg rd)).1) ∧
      BytesStored mid.turn t (s.ea rs imm + 2)
        (bytesOfHalf s.cfg.byteOrder (charsOfWord s.cfg.byteOrder (s.readReg rd)).2) := by
  have hnext : s.offset (s.ea rs imm) 2 = s.ea rs imm + 2 := State.fit_of_w32 hx _
  have hmid : Memory.wf (s.turn.writeChar (s.ea rs imm)
      (charsOfWord s.cfg.byteOrder (s.readReg rd)).1).mem = true :=
    State.writeChar_wf (State.turn_wf hwf) _ _
  refine ⟨_, s.turn.writeChar (s.ea rs imm) (charsOfWord s.cfg.byteOrder (s.readReg rd)).1,
    exec_sw_eq himm hx (hpop.storeRefusal_none hram (.inr heven)), rfl, rfl, hmid,
    State.writeChar_bytesStored (State.turn_wf hwf) (s.fit_ea rs imm) _, ?_⟩
  rw [← hnext]
  exact State.writeChar_bytesStored (State.turn_wf hmid) (s.fit_fit _) _

end StoredBehindTurns

/-- Settles O54: a store behind the turns in front of its transfers; the first two bytes of a word
are those of its first character, the others those of its second. -/
theorem storesBesideAnotherMaster : Obligations.StoresBesideAnotherMaster := by
  intro s rd rs n d imm _ hwf
  refine ⟨exec_sb_behind_turn hwf, fun himm heven => ⟨exec_sc_behind_turn hwf himm heven,
    fun hx hpop hram => ?sw⟩⟩
  case sw =>
    have hlen := bytesOfHalf_length s.cfg.byteOrder (charsOfWord s.cfg.byteOrder (s.readReg rd)).1
    rw [bytesOfWord_eq_append, List.take_left' hlen, List.drop_left' hlen]
    exact exec_sw_behind_turns hwf himm hx heven hpop hram

end Sys2Proof.Machine
